-- ==== Sys2Proof/Word.lean ====
section
/-! DEFINITION. The value types a command's operands have (spec/10_state.md R11) and the byte the packet buffer holds
(spec/00_scope.md R7). Plain data only; every operation on them stands under Sys2Proof/Machine. -/

namespace Sys2Proof

/-- A byte: 8 bits, bit 7 the most significant (00_scope.md R7). -/
abbrev Byte := BitVec 8

/-- A command selector: 4 bits (30_encoding.md R70). -/
abbrev Selector := BitVec 4

/-- A MAC address as it arrives on a port: six raw octets, `o0` the first octet supplied (10_state.md R11). -/
structure Mac where
  o0 : Byte
  o1 : Byte
  o2 : Byte
  o3 : Byte
  o4 : Byte
  o5 : Byte
  deriving DecidableEq, Repr, Inhabited

/-- One sample pair: in-phase and quadrature integers of any magnitude (43_iq_serializer.md R120). -/
structure Sample where
  i : Int
  q : Int
  deriving DecidableEq, Repr, Inhabited

/-- The value on the timestamp port: a number of seconds or a non-finite marker (10_state.md R11, 46_capture_container.md
R177). A finite value is an exact rational, which every floating-point number is (log 7); negative zero keeps a name of
its own because R177 speaks of it. -/
inductive Timestamp where
  | finite (value : Rat)
  | negZero
  | posInf
  | negInf
  | nan
  deriving DecidableEq, Repr

/-- The seven operands of ENC_APP, which ASSEMBLE takes too (10_state.md R11): naturals on `PORT_W`-bit ports. -/
structure AppOperands where
  frameId : Nat
  subframeId : Nat
  slotId : Nat
  symbolId : Nat
  sectionId : Nat
  startRb : Nat
  numRb : Nat
  deriving DecidableEq, Repr, Inhabited

end Sys2Proof
end

