-- ==== Sys2Proof/Config.lean ====
section
/-! DEFINITION. The configuration of one instance (spec/00_scope.md R6, spec/10_state.md R14), the constants an
implementation fixes, and the values the spec leaves open, which are opaque: nothing in Lean can tell what they are. -/

namespace Sys2Proof

/-- The configuration structure `CFG` with `PB_CAP` and `HAS_CONTAINER`: every field at the width 10_state.md R14 gives
it, so that a value wider than its field cannot be written (70_reset_and_hazards.md R233). -/
structure Cfg where
  version : BitVec 4
  rb : BitVec 1
  symInc : BitVec 1
  etherType : BitVec 16
  dstMac : Mac
  srcMac : Mac
  dir : BitVec 1
  pver : BitVec 3
  filt : BitVec 4
  msgType : BitVec 2
  numRbDefault : Nat
  scPerRb : Nat
  strict : Bool
  thiszone : BitVec 32
  sigfigs : BitVec 32
  snaplen : BitVec 32
  pbCap : Nat
  hasContainer : Bool
  deriving DecidableEq, Repr

/-- The four waveform patterns of the sample source, in the order of their port numbers 0 to 3 (43_iq_serializer.md
R125). -/
inductive Pattern where
  | sine
  | noise
  | lowPower
  | highPower
  deriving DecidableEq, Repr

namespace Config

/-- `PORT_W`: the width of the operand ports whose values are masked (00_scope.md R6, 10_state.md R11). -/
def portW : Nat := 32

/-- `CFG.ETHERTYPE`, OPEN (00_scope.md R6, D12, log 3). -/
opaque etherType : BitVec 16

/-- `CFG.DST_MAC`, OPEN (00_scope.md R6, D13, log 3). -/
opaque dstMac : Mac

/-- `CFG.SRC_MAC`, OPEN (00_scope.md R6, D13, log 3). -/
opaque srcMac : Mac

/-- `CFG.DIR`, OPEN (00_scope.md R6, D11, log 3). -/
opaque dir : BitVec 1

/-- `CFG.PVER`, OPEN (00_scope.md R6, D11, log 3). -/
opaque pver : BitVec 3

/-- `CFG.FILT`, OPEN (00_scope.md R6, D11, log 3). -/
opaque filt : BitVec 4

/-- `CFG.MSG_TYPE`, OPEN (00_scope.md R6, D14, log 3). -/
opaque msgType : BitVec 2

/-- `CFG.THISZONE`, OPEN (00_scope.md R6, D32, log 3). -/
opaque thiszone : BitVec 32

/-- `CFG.SIGFIGS`, OPEN (00_scope.md R6, D32, log 3). -/
opaque sigfigs : BitVec 32

/-- `CFG.SNAPLEN`, OPEN (00_scope.md R6, D32, log 3). -/
opaque snaplen : BitVec 32

/-- The configuration of the instance `State.reset` describes: the document's value where it gives one, the spec's
default for `PB_CAP` and `HAS_CONTAINER` (DESIGN CHOICE, log 4), an opaque constant for every OPEN value (log 3). -/
def initial : Cfg where
  version := 1
  rb := 1
  symInc := 0
  etherType := etherType
  dstMac := dstMac
  srcMac := srcMac
  dir := dir
  pver := pver
  filt := filt
  msgType := msgType
  numRbDefault := 273
  scPerRb := 12
  strict := false
  thiszone := thiszone
  sigfigs := sigfigs
  snaplen := snaplen
  pbCap := 65553
  hasContainer := true

/-- The sample source `IqSource(pattern, seed, count)`, an uninterpreted function (43_iq_serializer.md R125, R129, D25):
total and deterministic, with exactly `count` pairs in its result, and nothing known of their values (log 10). -/
opaque iqSource (pattern : Pattern) (seed count : Nat) : Vector Sample count

end Config

end Sys2Proof
end

