-- ==== Sys2Proof/Syntax.lean ====
section
/-! DEFINITION. The commands of the block: one constructor per row of spec/opcode_table.json, with the operands of
spec/10_state.md R11 as its arguments. -/

namespace Sys2Proof

/-- A command with its operands (30_encoding.md R70, R71, 10_state.md R11). Sixteen-bit ports are bit vectors; the
`PORT_W`-bit ports, which every rule masks, are naturals (R11 allows it, log 6). -/
inductive Instr where
  /-- `BEGIN`, selector 0x0 (45_control.md R160). -/
  | beginFrame
  /-- `ENC_ETH`, selector 0x1 (40_link_layer.md R80). -/
  | encEth (dst src : Mac)
  /-- `ENC_TRANSPORT`, selector 0x2 (41_transport.md R90). -/
  | encTransport (messageType : Nat) (flowId sequenceId payloadSize : BitVec 16)
  /-- `PATCH_SIZE`, selector 0x3 (41_transport.md R93). -/
  | patchSize (payloadSize : BitVec 16)
  /-- `ENC_APP`, selector 0x4 (42_application.md R105). -/
  | encApp (app : AppOperands)
  /-- `SER_IQ`, selector 0x5 (43_iq_serializer.md R120). -/
  | serIq (count : Int) (samples : List Sample)
  /-- `ASSEMBLE`, selector 0x6 (44_composer.md R140). -/
  | assemble (dst src : Mac) (messageType : Nat) (flowId : BitVec 16) (seqIndex : Nat) (app : AppOperands) (count : Int)
      (samples : List Sample)
  /-- `ENC_GHDR`, selector 0x8, adjacent container unit (46_capture_container.md R172). -/
  | encGhdr
  /-- `ENC_REC`, selector 0x9, adjacent container unit (46_capture_container.md R175). -/
  | encRec (ts : Timestamp)
  /-- The unassigned selector 0x7 (30_encoding.md R71). -/
  | unassigned7
  /-- The unassigned selectors 0xA and 0xB, pattern 101x: `low` is the free bit (30_encoding.md R71). -/
  | unassignedAB (low : BitVec 1)
  /-- The unassigned selectors 0xC to 0xF, pattern 11xx: `low` is the two free bits (30_encoding.md R71). -/
  | unassignedCF (low : BitVec 2)
  deriving DecidableEq, Repr

end Sys2Proof
end

