-- ==== Sys2Proof/Decode.lean ====
section
/-! DEFINITION. The command port (spec/30_encoding.md R70: a 4-bit selector plus the operand ports of
spec/10_state.md R11), the decoder of what stands on it, and the encoder that drives it. -/

namespace Sys2Proof

/-- The operand ports (10_state.md R11). A command reads the ports its row lists and no other. -/
structure Ports where
  dst : Mac
  src : Mac
  messageType : Nat
  flowId : BitVec 16
  sequenceId : BitVec 16
  payloadSize : BitVec 16
  seqIndex : Nat
  app : AppOperands
  count : Int
  samples : List Sample
  ts : Timestamp
  deriving DecidableEq, Repr

/-- What the host presents as one command: the selector lines and the operand ports (30_encoding.md R70). -/
structure Command where
  op : Selector
  ports : Ports
  deriving DecidableEq, Repr

/-- Why a word is no command. -/
inductive DecodeError where
  /-- The word has a bit set above the four selector lines (30_encoding.md R70: the selector is 4 bits). -/
  | selectorTooWide (word : Nat)
  deriving DecidableEq, Repr

/-- All six octets zero. -/
def zeroMac : Mac := ⟨0, 0, 0, 0, 0, 0⟩

/-- Every port at zero (an empty sample list, a timestamp of 0): what a command that does not use a port leaves on it. -/
def idlePorts : Ports where
  dst := zeroMac
  src := zeroMac
  messageType := 0
  flowId := 0
  sequenceId := 0
  payloadSize := 0
  seqIndex := 0
  app := ⟨0, 0, 0, 0, 0, 0, 0⟩
  count := 0
  samples := []
  ts := .finite 0

/-- The command the selector lines and the ports stand for: the `encoding` column of the table, bit 3 first
(30_encoding.md R70, R71, R74: every 4-bit value matches exactly one row). -/
def decode (op : Selector) (p : Ports) : Instr :=
  match op.getLsbD 3, op.getLsbD 2, op.getLsbD 1, op.getLsbD 0 with
  | false, false, false, false => .beginFrame
  | false, false, false, true => .encEth p.dst p.src
  | false, false, true, false => .encTransport p.messageType p.flowId p.sequenceId p.payloadSize
  | false, false, true, true => .patchSize p.payloadSize
  | false, true, false, false => .encApp p.app
  | false, true, false, true => .serIq p.count p.samples
  | false, true, true, false =>
    .assemble p.dst p.src p.messageType p.flowId p.seqIndex p.app p.count p.samples
  | false, true, true, true => .unassigned7
  | true, false, false, false => .encGhdr
  | true, false, false, true => .encRec p.ts
  | true, false, true, _ => .unassignedAB (op.extractLsb' 0 1)
  | true, true, _, _ => .unassignedCF (op.extractLsb' 0 2)

/-- Decoding of any natural laid on the selector lines: a word with a bit above the four lines is rejected by name. -/
def decodeWord (w : Nat) (p : Ports) : Except DecodeError Instr :=
  if w < 16 then .ok (decode (BitVec.ofNat 4 w) p) else .error (.selectorTooWide w)

/-- The selector of a command (30_encoding.md R70; the unassigned groups' patterns from R74). -/
def Instr.selector : Instr → Selector
  | .beginFrame => 0b0000#4
  | .encEth _ _ => 0b0001#4
  | .encTransport _ _ _ _ => 0b0010#4
  | .patchSize _ => 0b0011#4
  | .encApp _ => 0b0100#4
  | .serIq _ _ => 0b0101#4
  | .assemble _ _ _ _ _ _ _ _ => 0b0110#4
  | .encGhdr => 0b1000#4
  | .encRec _ => 0b1001#4
  | .unassigned7 => 0b0111#4
  | .unassignedAB low => 0b101#3 ++ low
  | .unassignedCF low => 0b11#2 ++ low

/-- The operand ports of a command: its operands on the ports 10_state.md R11 lists for it, the others idle. -/
def Instr.drivenPorts : Instr → Ports
  | .beginFrame => idlePorts
  | .encEth dst src => { idlePorts with dst := dst, src := src }
  | .encTransport messageType flowId sequenceId payloadSize =>
    { idlePorts with messageType := messageType, flowId := flowId, sequenceId := sequenceId, payloadSize := payloadSize }
  | .patchSize payloadSize => { idlePorts with payloadSize := payloadSize }
  | .encApp app => { idlePorts with app := app }
  | .serIq count samples => { idlePorts with count := count, samples := samples }
  | .assemble dst src messageType flowId seqIndex app count samples =>
    { idlePorts with
      dst := dst, src := src, messageType := messageType, flowId := flowId, seqIndex := seqIndex, app := app,
      count := count, samples := samples }
  | .encGhdr => idlePorts
  | .encRec ts => { idlePorts with ts := ts }
  | .unassigned7 => idlePorts
  | .unassignedAB _ => idlePorts
  | .unassignedCF _ => idlePorts

/-- What the host puts on the command port to issue the command. -/
def encode (i : Instr) : Command := ⟨i.selector, i.drivenPorts⟩

/-- The host's probe: the command a table word stands for. Bits 3 to 0 of the word are the selector (30_encoding.md
R74); a command has no further words, so its operand ports stand at zero. -/
def decodeTableWord (_nbits w : Nat) : Option Instr :=
  match decodeWord w idlePorts with
  | .ok i => some i
  | .error _ => none

end Sys2Proof
end

