-- ==== Sys2Proof/Machine/State.lean ====
section
/-! DEFINITION. The state of one instance as plain data (spec/10_state.md R10, R14, R20), the errors a command can
raise (spec/60_exceptions.md R191, R192), and the reasons a step can stop. -/

namespace Sys2Proof.Machine

/-- The packet buffer's written bytes as (address, byte) cells, addresses rising (20_memory.md R30). -/
abbrev Memory := List Host.Cell

/-- Why a step stops with a fault. No state that meets `State.Inv` of Sys2Proof/Safety.lean reaches either of them. -/
inductive Fault where
  /-- Raised by PATCH_SIZE (through `State.memWrite`) when THV = 1 but the two bytes at THO + 1 do not lie inside the
  frame, which 41_transport.md R93 says cannot be. Safe: the model stops where the rules define no write (log 11). -/
  | accessOutsideFrame
  /-- Raised by ENC_REC (through `State.memRead`) when a byte below LEN was never written. Safe: the model stops rather
  than invent an unspecified byte of PB (log 5). -/
  | unwrittenByte
  deriving DecidableEq, Repr

/-- Why a step is refused. -/
inductive Refusal where
  /-- Raised by exec for a command that has no meaning yet. Safe. No arm of exec answers with it: every command is
  modelled. -/
  | notModelled (mnemonic : String)
  deriving DecidableEq, Repr

/-- The causes within PreconditionError (60_exceptions.md R192). -/
inductive Cause where
  | negCount
  | countMismatch
  | strictRange
  | sizeOverflow
  | emptyPayload
  | badTimestamp
  deriving DecidableEq, Repr

/-- The error kinds (60_exceptions.md R191). FormatError has a code and no command that raises it (40_link_layer.md
R81). -/
inductive CmdError where
  | formatError
  | precondition (cause : Cause)
  | illegalOp
  | bufferOverflow
  | patchNoHeader
  deriving DecidableEq, Repr

/-- What the host presents to the block: a command on the command port, or the reset input (70_reset_and_hazards.md
R220, R235). -/
inductive HostInput where
  | command (c : Command)
  | reset
  deriving DecidableEq, Repr

/-- The state of one instance. `pb` to `errOp` are the tuple of 10_state.md R10; `cfg` is the instance's static
configuration (R14, log 1); `input` is the model's own: what the host will present next, head first (log 2). -/
structure State where
  pb : Memory
  len : Nat
  thv : Bool
  tho : Nat
  err : BitVec 4
  errCause : BitVec 4
  errOp : BitVec 4
  cfg : Cfg
  input : List HostInput
  deriving DecidableEq, Repr

/-- The state after reset of an instance with configuration `c` (10_state.md R20). PB is unspecified there: no byte is
listed (log 5). -/
def State.afterReset (c : Cfg) (input : List HostInput) : State where
  pb := []
  len := 0
  thv := false
  tho := 0
  err := 0
  errCause := 0
  errOp := 0
  cfg := c
  input := input

/-- The machine right after reset, with nothing presented by the host. -/
def State.reset : State := State.afterReset Config.initial []

/-- What a command answers. -/
abbrev Answer := Host.Outcome State Fault Refusal

end Sys2Proof.Machine
end

