-- ==== Sys2Proof/Machine/Operands.lean ====
section
/-! DEFINITION. Every operand form: masking, byte order, clamping and two's complement (spec/00_scope.md R7,
spec/30_encoding.md R60, R62), the strict-mode check (R61), the sample count and the timestamp
(spec/43_iq_serializer.md R120, spec/46_capture_container.md R174, R175, R177). -/

namespace Sys2Proof.Machine

/-- `mask_w(v) = v mod 2^w` (00_scope.md R7). -/
def mask (w v : Nat) : BitVec w := BitVec.ofNat w v

/-- `BE16(v)` (00_scope.md R7). -/
def be16 (v : BitVec 16) : List Byte := [v.extractLsb' 8 8, v.extractLsb' 0 8]

/-- `BE32(v)` (00_scope.md R7). -/
def be32 (v : BitVec 32) : List Byte :=
  [v.extractLsb' 24 8, v.extractLsb' 16 8, v.extractLsb' 8 8, v.extractLsb' 0 8]

/-- `LE16(v)` (00_scope.md R7). -/
def le16 (v : BitVec 16) : List Byte := [v.extractLsb' 0 8, v.extractLsb' 8 8]

/-- `LE32(v)` (00_scope.md R7). -/
def le32 (v : BitVec 32) : List Byte :=
  [v.extractLsb' 0 8, v.extractLsb' 8 8, v.extractLsb' 16 8, v.extractLsb' 24 8]

/-- `clamp16(v) = max(-32768, min(32767, v))` (00_scope.md R7). -/
def clamp16 (v : Int) : Int := max (-32768) (min 32767 v)

/-- `tc16(v)`: the 16-bit two's-complement pattern (00_scope.md R7, D23). -/
def tc16 (v : Int) : BitVec 16 := BitVec.ofInt 16 v

/-- A MAC address as bytes, first octet first (40_link_layer.md R80). -/
def macBytes (m : Mac) : List Byte := [m.o0, m.o1, m.o2, m.o3, m.o4, m.o5]

/-- Strict mode refuses the operands: one of the four ids does not fit its field (30_encoding.md R61,
42_application.md R106). -/
def strictRefuses (c : Cfg) (a : AppOperands) : Bool :=
  c.strict &&
    (decide (16 ≤ a.subframeId) || decide (16 ≤ a.slotId) || decide (64 ≤ a.symbolId) || decide (4096 ≤ a.sectionId))

/-- `count < 0` (60_exceptions.md R192, NegCount). -/
def negCount (count : Int) : Bool := decide (count < 0)

/-- The port supplies fewer than `count` pairs (60_exceptions.md R192, CountMismatch). -/
def tooFewSamples (count : Int) (samples : List Sample) : Bool := decide ((samples.length : Int) < count)

/-- The payload size `8 + 4 * count` does not fit 16 bits (60_exceptions.md R192, SizeOverflow). -/
def sizeOverflows (count : Int) : Bool := decide (65535 < 8 + 4 * count)

/-- The first `count` pairs of the port (43_iq_serializer.md R120). -/
def usedSamples (count : Int) (samples : List Sample) : List Sample := samples.take count.toNat

/-- The number of bytes `count` pairs take: `4 * count` (30_encoding.md R58). -/
def iqLength (count : Int) : Nat := 4 * count.toNat

/-- The exact value of a finite timestamp; negative zero is zero (46_capture_container.md R177). A non-finite marker has
none: no rule reads it, since BadTimestamp is raised first. -/
def tsValue : Timestamp → Option Rat
  | .finite v => some v
  | .negZero => some 0
  | .posInf => none
  | .negInf => none
  | .nan => none

/-- `floor(ts)` of a rational: the numerator divided by the positive denominator, rounded down. -/
def tsSeconds (v : Rat) : Int := v.num / v.den

/-- `floor((ts - floor(ts)) * 1000000)` in exact arithmetic (46_capture_container.md R174, D33): the remainder of the
numerator is `(ts - floor(ts))` times the denominator. -/
def tsMicros (v : Rat) : Int := v.num % v.den * 1000000 / v.den

/-- `TsSplit(ts) = (sec, usec)` (46_capture_container.md R174). -/
def tsSplit (v : Rat) : Int × Int := (tsSeconds v, tsMicros v)

/-- The timestamp is not finite, is negative, or has seconds that do not fit 32 bits (60_exceptions.md R192,
BadTimestamp). -/
def badTimestamp (ts : Timestamp) : Bool :=
  match tsValue ts with
  | some v => decide (v.num < 0) || decide (2 ^ 32 ≤ tsSeconds v)
  | none => true

end Sys2Proof.Machine
end

