-- ==== Sys2Proof/Machine/Formats.lean ====
section
/-! DEFINITION. The emitted formats, byte by byte and bit by bit: LL, TH, AH, IQ and PKT (spec/30_encoding.md R51 to R59)
and the container's GH and RH (spec/46_capture_container.md R171, R173). `++` on bit vectors puts its left part in the
more significant bits, which is the order R51 fixes. -/

namespace Sys2Proof.Machine

/-- Format LL, 14 bytes (30_encoding.md R52). -/
def linkHeader (c : Cfg) (dst src : Mac) : List Byte := macBytes dst ++ macBytes src ++ be16 c.etherType

/-- Transport byte 0: version, reserved 0, concatenation flag 0, message type (30_encoding.md R53). -/
def transportByte0 (c : Cfg) (messageType : Nat) : Byte := c.version ++ 0#1 ++ 0#1 ++ mask 2 messageType

/-- Format TH, 7 bytes: byte 0, payload size, flow id, sequence id (30_encoding.md R54). -/
def transportHeader (c : Cfg) (messageType : Nat) (flowId sequenceId payloadSize : BitVec 16) : List Byte :=
  transportByte0 c messageType :: (be16 payloadSize ++ be16 flowId ++ be16 sequenceId)

/-- Application byte 0: direction, payload version, filter index (30_encoding.md R55). -/
def appByte0 (c : Cfg) : Byte := c.dir ++ c.pver ++ c.filt

/-- Application byte 2: subframe id, slot id (30_encoding.md R55). -/
def appByte2 (a : AppOperands) : Byte := mask 4 a.subframeId ++ mask 4 a.slotId

/-- Application byte 3: symbol id, two reserved bits 0 (30_encoding.md R55, R63). -/
def appByte3 (a : AppOperands) : Byte := mask 6 a.symbolId ++ 0#2

/-- The section-parameter word: section id, rb, symInc, start index, count (30_encoding.md R56). -/
def sectionWord (c : Cfg) (a : AppOperands) : BitVec 32 :=
  mask 12 a.sectionId ++ c.rb ++ c.symInc ++ mask 10 a.startRb ++ mask 8 a.numRb

/-- Format AH, 8 bytes (30_encoding.md R57). -/
def appHeader (c : Cfg) (a : AppOperands) : List Byte :=
  [appByte0 c, mask 8 a.frameId, appByte2 a, appByte3 a] ++ be32 (sectionWord c a)

/-- Format IQ, 4 bytes: I then Q, each clamped, two's complement, big-endian (30_encoding.md R58). -/
def iqPair (p : Sample) : List Byte := be16 (tc16 (clamp16 p.i)) ++ be16 (tc16 (clamp16 p.q))

/-- The IQ block: the pairs in order (30_encoding.md R58). -/
def iqBlock (samples : List Sample) : List Byte := samples.flatMap iqPair

/-- The payload size the composer computes: the application header's and the IQ block's bytes (44_composer.md R140,
R142). The composer refuses a size that does not fit 16 bits before it uses this (R143). -/
def composedSize (ah iq : List Byte) : BitVec 16 := BitVec.ofNat 16 (ah.length + iq.length)

/-- Format PKT: link layer, transport, application, IQ block (30_encoding.md R59, 44_composer.md R140, R141), the
sequence index reduced modulo 65536 (R144). -/
def packet (c : Cfg) (dst src : Mac) (messageType : Nat) (flowId : BitVec 16) (seqIndex : Nat) (a : AppOperands)
    (samples : List Sample) : List Byte :=
  linkHeader c dst src ++
    transportHeader c messageType flowId (mask 16 seqIndex) (composedSize (appHeader c a) (iqBlock samples)) ++
    appHeader c a ++ iqBlock samples

/-- Format GH, 24 bytes, little-endian: magic, version 2.4, the three configured fields, link type 1
(46_capture_container.md R171). -/
def globalHeader (c : Cfg) : List Byte :=
  le32 0xa1b2c3d4#32 ++ le16 2#16 ++ le16 4#16 ++ le32 c.thiszone ++ le32 c.sigfigs ++ le32 c.snaplen ++ le32 1#32

/-- Format RH, 16 bytes, little-endian: seconds, microseconds, captured length, original length
(46_capture_container.md R173). `LE32` of a length takes its low 32 bits, whatever the length (00_scope.md R7). -/
def recordHeader (split : Int × Int) (n : Nat) : List Byte :=
  le32 (BitVec.ofInt 32 split.1) ++ le32 (BitVec.ofInt 32 split.2) ++ le32 (mask 32 n) ++ le32 (mask 32 n)

end Sys2Proof.Machine
end

