-- ==== Sys2Proof/Machine/Flags.lean ====
section
/-! DEFINITION. The status-like elements of the state (spec/10_state.md R13, R15): the transport-header marker THV and
THO, and the codes the error registers hold (spec/60_exceptions.md R191, R192). There are no condition codes. -/

namespace Sys2Proof.Machine

/-- The value of ERR_CAUSE for a cause (60_exceptions.md R192). -/
def Cause.code : Cause → BitVec 4
  | .negCount => 1
  | .countMismatch => 2
  | .strictRange => 3
  | .sizeOverflow => 4
  | .emptyPayload => 5
  | .badTimestamp => 6

/-- The value of ERR for an error kind (60_exceptions.md R191). -/
def CmdError.kindCode : CmdError → BitVec 4
  | .formatError => 1
  | .precondition _ => 2
  | .illegalOp => 3
  | .bufferOverflow => 4
  | .patchNoHeader => 5

/-- The value of ERR_CAUSE for an error: the cause of a PreconditionError, 0 for every other kind (60_exceptions.md
R192). -/
def CmdError.causeCode : CmdError → BitVec 4
  | .precondition c => c.code
  | .formatError => 0
  | .illegalOp => 0
  | .bufferOverflow => 0
  | .patchNoHeader => 0

/-- THV <- 1 ; THO <- `offset`: remember the place of a transport header (41_transport.md R90, 44_composer.md R140). -/
def State.markHeader (offset : Nat) (s : State) : State := { s with thv := true, tho := offset }

/-- THV <- 0: the frame holds no transport header that may be patched; THO keeps its value (45_control.md R160). -/
def State.dropHeader (s : State) : State := { s with thv := false }

/-- The state is a fault state of the block: an error stands and only reset clears it (60_exceptions.md R200). -/
def State.faulted (s : State) : Bool := s.err != 0

end Sys2Proof.Machine
end

