-- ==== Sys2Proof/Machine/Ops.lean ====
section
/-! DEFINITION. The named operations over the packet buffer and the registers: reading and writing bytes
(spec/00_scope.md R8, spec/20_memory.md R30, R31), raising an error (spec/60_exceptions.md R199), the order in which a
command checks and acts (R198, R200), the reset input (spec/70_reset_and_hazards.md R220) and the output port
(spec/10_state.md R19). -/

namespace Sys2Proof.Machine

/-- What a byte of PB that nothing has written reads as: no value (10_state.md R20 leaves it unspecified, log 5). -/
def Memory.unlisted : Option Byte := none

/-- The byte at address `a`. -/
def Memory.read : Memory → Nat → Option Byte
  | [], _ => Memory.unlisted
  | (x, b) :: m, a => if x = a then some b else Memory.read m a

/-- The cells that hold `bs` from address `a` on. -/
def Memory.cells : Nat → List Byte → Memory
  | _, [] => []
  | a, b :: bs => (a, b) :: Memory.cells (a + 1) bs

/-- The buffer with `bs` at addresses `a`, `a + 1`, ...: cells below, the new cells, cells above. -/
def Memory.write (m : Memory) (a : Nat) (bs : List Byte) : Memory :=
  m.filter (fun c => decide (c.1 < a)) ++ Memory.cells a bs ++ m.filter (fun c => decide (a + bs.length ≤ c.1))

/-- The `n` bytes from address `a` on, if every one of them has been written. -/
def Memory.readBytes (m : Memory) : Nat → Nat → Option (List Byte)
  | _, 0 => some []
  | a, n + 1 =>
    match Memory.read m a, Memory.readBytes m (a + 1) n with
    | some b, some bs => some (b :: bs)
    | _, _ => none

/-- The canonical form: addresses strictly rising, and no cell equal to what an unlisted address reads as. -/
def Memory.wf (m : Memory) : Bool :=
  decide (m.Pairwise (fun c d => c.1 < d.1)) && m.all (fun c => some c.2 != Memory.unlisted)

/-- `Append(s)` without its capacity check, which a command makes once before it writes (00_scope.md R8,
60_exceptions.md R195): the bytes at LEN, and LEN moved past them. -/
def State.append (bs : List Byte) (s : State) : State :=
  { s with pb := s.pb.write s.len bs, len := s.len + bs.length }

/-- LEN <- 0: the bytes stay where they are and become free (45_control.md R160). -/
def State.truncate (s : State) : State := { s with len := 0 }

/-- `MemWrite(a, n, bs)` as PATCH_SIZE uses it, inside the frame (00_scope.md R8: `a + n <= LEN`). -/
def State.memWrite (a : Nat) (bs : List Byte) (s : State) : Answer :=
  if a + bs.length ≤ s.len then .next { s with pb := s.pb.write a bs } else .fault .accessOutsideFrame

/-- `MemRead(a, n)`, handed on to what uses the bytes (00_scope.md R8: defined inside the frame). -/
def State.memRead (a n : Nat) (use : List Byte → Answer) (s : State) : Answer :=
  match s.pb.readBytes a n with
  | some bs => use bs
  | none => .fault .unwrittenByte

/-- An append of `n` bytes that starts at `start` would pass `PB_CAP` (60_exceptions.md R195). -/
def State.lacksRoom (s : State) (start n : Nat) : Bool := decide (s.cfg.pbCap < start + n)

/-- TAKING AN ERROR (60_exceptions.md R199): kind, cause and selector recorded if no error stands yet; nothing else
changes. -/
def State.raise (e : CmdError) (op : Selector) (s : State) : State :=
  if s.err = 0 then { s with err := e.kindCode, errCause := e.causeCode, errOp := op } else s

/-- The first error of the list whose condition holds (60_exceptions.md R198: one command reports one error). -/
def firstError : List (Bool × CmdError) → Option CmdError
  | [] => none
  | (holds, e) :: rest => if holds then some e else firstError rest

/-- ONE COMMAND (60_exceptions.md R198 to R200): while an error stands it is refused and changes nothing; else the first
check that holds raises its error; else the effect. -/
def runCommand (op : Selector) (checks : List (Bool × CmdError)) (effect : Answer) (s : State) : Answer :=
  if s.err = 0 then
    match firstError checks with
    | some e => .next (s.raise e op)
    | none => effect
  else .next s

/-- The reset input (70_reset_and_hazards.md R220): the reset state of 10_state.md R20, the configuration unchanged. -/
def State.applyReset (s : State) : State := State.afterReset s.cfg s.input

/-- `OUT_LEN` of the output port (10_state.md R19). -/
def State.outLen (s : State) : Nat := s.len

/-- `OUT_BYTES` of the output port: `PB[0 .. LEN-1]` (10_state.md R19). -/
def State.outBytes (s : State) : Option (List Byte) := s.pb.readBytes 0 s.len

end Sys2Proof.Machine
end

