-- ==== Sys2Proof/Machine/Application.lean ====
section
/-! DEFINITION. The application header encoder: ENC_APP (spec/42_application.md). -/

namespace Sys2Proof.Machine

/-- ENC_APP: the 8-byte application header appended, after the strict-mode check (42_application.md R105, R106). -/
def execEncApp (app : AppOperands) (s : State) : Answer :=
  runCommand 0x4
    [(strictRefuses s.cfg app, .precondition .strictRange), (s.lacksRoom s.len 8, .bufferOverflow)]
    (.next (s.append (appHeader s.cfg app))) s

end Sys2Proof.Machine
end

