-- ==== Sys2Proof/Machine/Composer.lean ====
section
/-! DEFINITION. The packet-frame composer: ASSEMBLE (spec/44_composer.md). -/

namespace Sys2Proof.Machine

/-- ASSEMBLE: one complete packet in a fresh frame, its payload size computed, its transport header at 14
(44_composer.md R140). -/
def execAssemble (dst src : Mac) (messageType : Nat) (flowId : BitVec 16) (seqIndex : Nat) (app : AppOperands)
    (count : Int) (samples : List Sample) (s : State) : Answer :=
  runCommand 0x6
    [(strictRefuses s.cfg app, .precondition .strictRange), (negCount count, .precondition .negCount),
      (tooFewSamples count samples, .precondition .countMismatch),
      (sizeOverflows count, .precondition .sizeOverflow),
      (s.lacksRoom 0 (29 + iqLength count), .bufferOverflow)]
    (.next
      ((s.truncate.append
        (packet s.cfg dst src messageType flowId seqIndex app (usedSamples count samples))).markHeader 14))
    s

end Sys2Proof.Machine
end

