-- ==== Sys2Proof/Machine/Container.lean ====
section
/-! DEFINITION. The adjacent capture container encoder: ENC_GHDR and ENC_REC (spec/46_capture_container.md). Without the
unit both selectors are unassigned and raise IllegalOp (spec/30_encoding.md R71). -/

namespace Sys2Proof.Machine

/-- ENC_GHDR: the 24-byte global header as a fresh frame (46_capture_container.md R172). -/
def execEncGhdr (s : State) : Answer :=
  runCommand 0x8 [(!s.cfg.hasContainer, .illegalOp), (s.lacksRoom 0 24, .bufferOverflow)]
    (.next (s.truncate.dropHeader.append (globalHeader s.cfg))) s

/-- The record written over the whole frame: header, then the payload moved up by 16 (46_capture_container.md R175). -/
def State.wrapRecord (ts : Timestamp) (s : State) (payload : List Byte) : Answer :=
  match tsValue ts with
  | some v => .next (s.truncate.dropHeader.append (recordHeader (tsSplit v) s.len ++ payload))
  | none => .next s

/-- ENC_REC: the frame in the buffer wrapped into a container record (46_capture_container.md R175). The arm of
`State.wrapRecord` for a timestamp without a value is never taken: BadTimestamp is raised first. -/
def execEncRec (ts : Timestamp) (s : State) : Answer :=
  runCommand 0x9
    [(!s.cfg.hasContainer, .illegalOp), (decide (s.len = 0), .precondition .emptyPayload),
      (badTimestamp ts, .precondition .badTimestamp), (s.lacksRoom s.len 16, .bufferOverflow)]
    (s.memRead 0 s.len (s.wrapRecord ts)) s

end Sys2Proof.Machine
end

