-- ==== Sys2Proof/Machine/Control.lean ====
section
/-! DEFINITION. Frame control: BEGIN (spec/45_control.md R160) and the unassigned selectors (spec/30_encoding.md R71,
spec/60_exceptions.md R193). -/

namespace Sys2Proof.Machine

/-- BEGIN: LEN <- 0, THV <- 0 (45_control.md R160). -/
def execBegin (s : State) : Answer := runCommand 0x0 [] (.next s.truncate.dropHeader) s

/-- A command whose selector is unassigned raises IllegalOp, cause 0, and records the selector (60_exceptions.md R193). -/
def runUnassigned (op : Selector) (s : State) : Answer := runCommand op [(true, .illegalOp)] (.next s) s

/-- Selector 0x7 (30_encoding.md R71). -/
def execUnassigned7 (s : State) : Answer := runUnassigned 0x7 s

/-- Selectors 0xA and 0xB (30_encoding.md R71). -/
def execUnassignedAB (low : BitVec 1) (s : State) : Answer := runUnassigned (0b101#3 ++ low) s

/-- Selectors 0xC to 0xF (30_encoding.md R71). -/
def execUnassignedCF (low : BitVec 2) (s : State) : Answer := runUnassigned (0b11#2 ++ low) s

end Sys2Proof.Machine
end

