-- ==== Sys2Proof/Machine/IqSerializer.lean ====
section
/-! DEFINITION. The IQ sample serializer: SER_IQ (spec/43_iq_serializer.md). -/

namespace Sys2Proof.Machine

/-- SER_IQ: the first `count` sample pairs clamped, serialised and appended (43_iq_serializer.md R120). -/
def execSerIq (count : Int) (samples : List Sample) (s : State) : Answer :=
  runCommand 0x5
    [(negCount count, .precondition .negCount), (tooFewSamples count samples, .precondition .countMismatch),
      (s.lacksRoom s.len (iqLength count), .bufferOverflow)]
    (.next (s.append (iqBlock (usedSamples count samples)))) s

end Sys2Proof.Machine
end

