-- ==== Sys2Proof/Machine/LinkLayer.lean ====
section
/-! DEFINITION. The link-layer encoder: ENC_ETH (spec/40_link_layer.md). -/

namespace Sys2Proof.Machine

/-- ENC_ETH: the 14-byte link-layer header appended (40_link_layer.md R80). -/
def execEncEth (dst src : Mac) (s : State) : Answer :=
  runCommand 0x1 [(s.lacksRoom s.len 14, .bufferOverflow)] (.next (s.append (linkHeader s.cfg dst src))) s

end Sys2Proof.Machine
end

