-- ==== Sys2Proof/Machine/Transport.lean ====
section
/-! DEFINITION. The transport header encoder: ENC_TRANSPORT and PATCH_SIZE (spec/41_transport.md). -/

namespace Sys2Proof.Machine

/-- ENC_TRANSPORT: the 7-byte transport header appended, its place remembered (41_transport.md R90). -/
def execEncTransport (messageType : Nat) (flowId sequenceId payloadSize : BitVec 16) (s : State) : Answer :=
  runCommand 0x2 [(s.lacksRoom s.len 7, .bufferOverflow)]
    (.next ((s.markHeader s.len).append (transportHeader s.cfg messageType flowId sequenceId payloadSize))) s

/-- PATCH_SIZE: bytes 1 and 2 of the remembered transport header overwritten (41_transport.md R93). -/
def execPatchSize (payloadSize : BitVec 16) (s : State) : Answer :=
  runCommand 0x3 [(!s.thv, .patchNoHeader)] (s.memWrite (s.tho + 1) (be16 payloadSize)) s

end Sys2Proof.Machine
end

