-- ==== Sys2Proof/Machine/Dispatch.lean ====
section
/-! DEFINITION. exec: one arm per command, each one call of its meaning. -/

namespace Sys2Proof.Machine

def exec (i : Instr) (s : State) : Host.Outcome State Fault Refusal :=
  match i with
  | .beginFrame => Sys2Proof.Machine.execBegin s
  | .encEth dst src => Sys2Proof.Machine.execEncEth dst src s
  | .encTransport messageType flowId sequenceId payloadSize => Sys2Proof.Machine.execEncTransport messageType flowId sequenceId payloadSize s
  | .patchSize payloadSize => Sys2Proof.Machine.execPatchSize payloadSize s
  | .encApp app => Sys2Proof.Machine.execEncApp app s
  | .serIq count samples => Sys2Proof.Machine.execSerIq count samples s
  | .assemble dst src messageType flowId seqIndex app count samples => Sys2Proof.Machine.execAssemble dst src messageType flowId seqIndex app count samples s
  | .encGhdr => Sys2Proof.Machine.execEncGhdr s
  | .encRec ts => Sys2Proof.Machine.execEncRec ts s
  | .unassigned7 => Sys2Proof.Machine.execUnassigned7 s
  | .unassignedAB low => Sys2Proof.Machine.execUnassignedAB low s
  | .unassignedCF low => Sys2Proof.Machine.execUnassignedCF low s

end Sys2Proof.Machine
end

