-- ==== Sys2Proof/Machine/Step.lean ====
section
/-! DEFINITION. One step of the block: it takes what the host presents next (spec/10_state.md R12,
spec/20_memory.md R39). -/

namespace Sys2Proof.Machine

/-- One step: with nothing presented the block waits; the reset input resets it (70_reset_and_hazards.md R220); a command
is taken off the port and run to completion (10_state.md R12, log 2). -/
def step (s : State) : Host.Outcome State Fault Refusal :=
  match s.input with
  | [] => .next s
  | .reset :: rest => .next ({ s with input := rest }.applyReset)
  | .command c :: rest => exec (decode c.op c.ports) { s with input := rest }

/-- The command with selector word `w` and its operand ports at zero as the very next thing the host presents. A word of
16 or more is no selector and cannot be presented (log 8). -/
def State.withFetchWord (s : State) (_nbits w : Nat) : State :=
  if w < 16 then { s with input := .command ⟨BitVec.ofNat 4 w, idlePorts⟩ :: s.input } else s

end Sys2Proof.Machine
end

