-- ==== Sys2Proof/Machine/Pseudo.lean ====
section
/-! DEFINITION. The host's side of the command port: the pseudo-commands of spec/30_encoding.md R73 and
spec/44_composer.md R147, and commands issued one after another (spec/20_memory.md R39). -/

namespace Sys2Proof.Machine

/-- The commands of the list issued in order, each run to completion (10_state.md R12, 20_memory.md R39). -/
def execAll : List Instr → State → Answer
  | [], s => .next s
  | i :: is, s =>
    match exec i s with
    | .next t => execAll is t
    | .fault r => .fault r
    | .refused r => .refused r

/-- `ENC_TRANSPORT_DEFERRED`: ENC_TRANSPORT with payload size 0 (30_encoding.md R73, 41_transport.md R91). -/
def encTransportDeferred (messageType : Nat) (flowId sequenceId : BitVec 16) : Instr :=
  .encTransport messageType flowId sequenceId 0

/-- `STANDALONE <cmd>`: BEGIN, then the command (30_encoding.md R73). -/
def standalone (i : Instr) : List Instr := [.beginFrame, i]

/-- `WRAP ts`: ENC_REC (30_encoding.md R73). -/
def wrap (ts : Timestamp) : Instr := .encRec ts

/-- The waveform pattern a 2-bit port value names (43_iq_serializer.md R125). -/
def patternOfPort (v : BitVec 2) : Pattern :=
  if v = 0 then .sine else if v = 1 then .noise else if v = 2 then .lowPower else .highPower

/-- The document's `generate_iq(count, pattern, seed)`: SER_IQ with the samples of the source, issued on an empty frame
(43_iq_serializer.md R125). For a negative count SER_IQ raises before it uses a sample (R129). -/
def generateIq (count : Int) (pattern : Pattern) (seed : Nat) : List Instr :=
  standalone (.serIq count (Config.iqSource pattern seed count.toNat).toList)

/-- `MKPKT`, the core API: ASSEMBLE with the configured addresses and message type, the default resource-block count
where none is given, and `SC_PER_RB * n` pairs of the sample source, `n` unmasked (44_composer.md R147). The operands
other than `num_rb` come in `app`, whose own `numRb` is not read. -/
def mkpkt (c : Cfg) (seqIndex : Nat) (flowId : BitVec 16) (app : AppOperands) (numRb : Option Nat) (pattern : Pattern)
    (seed : Nat) : Instr :=
  .assemble c.dstMac c.srcMac c.msgType.toNat flowId seqIndex { app with numRb := numRb.getD c.numRbDefault }
    ((c.scPerRb * numRb.getD c.numRbDefault : Nat) : Int)
    (Config.iqSource pattern seed (c.scPerRb * numRb.getD c.numRbDefault)).toList

/-- The frame of ASSEMBLE built step by step, payload size known up front (44_composer.md R145, pattern (a)). -/
def patternA (dst src : Mac) (messageType : Nat) (flowId : BitVec 16) (seqIndex : Nat) (app : AppOperands) (count : Int)
    (samples : List Sample) : List Instr :=
  [.beginFrame, .encEth dst src,
    .encTransport messageType flowId (BitVec.ofNat 16 seqIndex) (BitVec.ofNat 16 (8 + 4 * count.toNat)),
    .encApp app, .serIq count samples]

/-- The frame of ASSEMBLE built step by step, payload size patched afterwards (44_composer.md R145, pattern (b)). -/
def patternB (dst src : Mac) (messageType : Nat) (flowId : BitVec 16) (seqIndex : Nat) (app : AppOperands) (count : Int)
    (samples : List Sample) : List Instr :=
  [.beginFrame, .encEth dst src, encTransportDeferred messageType flowId (BitVec.ofNat 16 seqIndex), .encApp app,
    .serIq count samples, .patchSize (BitVec.ofNat 16 (8 + 4 * count.toNat))]

end Sys2Proof.Machine
end

