-- ==== Sys2Proof/Machine/System.lean ====
section
/-! DEFINITION. Several instances side by side (spec/20_memory.md R40, spec/60_exceptions.md R206, D35): they share
nothing, and which of them steps next is the hosts' choice (log 14). -/

namespace Sys2Proof.Machine

/-- A system of instances: the product of their states (D35). -/
abbrev System := List State

/-- Instance number `k` takes one step; a number without an instance does nothing. -/
def stepInstance (k : Nat) (sys : System) : Host.Outcome System Fault Refusal :=
  match sys[k]? with
  | none => .next sys
  | some s =>
    match step s with
    | .next t => .next (sys.set k t)
    | .fault r => .fault r
    | .refused r => .refused r

end Sys2Proof.Machine
end

