-- ==== Sys2Proof/WellFormed.lean ====
section
/-! DEFINITION. Which commands a host can present: every operand of a `PORT_W`-bit port fits the port
(spec/10_state.md R11). The other operands are typed at their ports' widths and need no check. -/

namespace Sys2Proof

/-- The value can be presented on a `PORT_W`-bit port (10_state.md R11: natural `< 2^PORT_W`). -/
def fitsPort (v : Nat) : Bool := decide (v < 2 ^ Config.portW)

/-- Each of the seven application operands fits its port. -/
def AppOperands.fits (a : AppOperands) : Bool :=
  fitsPort a.frameId && fitsPort a.subframeId && fitsPort a.slotId && fitsPort a.symbolId && fitsPort a.sectionId &&
    fitsPort a.startRb && fitsPort a.numRb

/-- The command's operands fit the ports they arrive on. -/
def Instr.wellFormed : Instr → Bool
  | .beginFrame => true
  | .encEth _ _ => true
  | .encTransport messageType _ _ _ => fitsPort messageType
  | .patchSize _ => true
  | .encApp app => app.fits
  | .serIq _ _ => true
  | .assemble _ _ messageType _ seqIndex app _ _ => fitsPort messageType && fitsPort seqIndex && app.fits
  | .encGhdr => true
  | .encRec _ => true
  | .unassigned7 => true
  | .unassignedAB _ => true
  | .unassignedCF _ => true

end Sys2Proof
end

