-- ==== Sys2Proof/Safety.lean ====
section
/-! DEFINITION. What counts as a good state of the block, and the words claims about it are written in: which bytes
stand where, what is left unchanged, and the emitted formats once more as plain arithmetic on naturals. -/

namespace Sys2Proof.Machine

/-- The values the registers ERR and ERR_CAUSE hold together (60_exceptions.md R191, R192): no error; a
PreconditionError with one of its six causes; IllegalOp, BufferOverflow or PatchNoHeader with cause 0. FormatError is
raised by no command. -/
def legalError (kind cause : BitVec 4) : Bool :=
  (kind == 0 && cause == 0) || (kind == 2 && decide (1 ≤ cause.toNat) && decide (cause.toNat ≤ 6)) ||
    ((kind == 3 || kind == 4 || kind == 5) && cause == 0)

/-- THE INVARIANT of one instance: LEN and THO keep their ranges (10_state.md R10), a marked header lies inside the frame
(41_transport.md R93), PB is in canonical form, lists only addresses below `PB_CAP` and holds every byte of the frame
(20_memory.md R30), and the error registers hold a code of 60_exceptions.md R191, R192. -/
structure State.Inv (s : State) : Prop where
  cap : 29 ≤ s.cfg.pbCap
  len_le : s.len ≤ s.cfg.pbCap
  tho_le : s.tho + 7 ≤ s.cfg.pbCap
  header : s.thv = true → s.tho + 7 ≤ s.len
  wf : s.pb.wf = true
  inside : ∀ c ∈ s.pb, c.1 < s.cfg.pbCap
  written : ∀ a, a < s.len → (s.pb.read a).isSome = true
  error : legalError s.err s.errCause = true
  quiet : s.err = 0 → s.errOp = 0

/-- The bytes `bs` stand at address `a`, `a + 1`, .... -/
def Memory.Holds (m : Memory) (a : Nat) (bs : List Byte) : Prop :=
  ∀ k (h : k < bs.length), m.read (a + k) = some bs[k]

/-- Every byte outside the `n` bytes from address `a` on reads in `m'` as in `m`. -/
def Memory.SameOutside (m m' : Memory) (a n : Nat) : Prop :=
  ∀ x, x < a ∨ a + n ≤ x → m'.read x = m.read x

/-- The error registers are the same. -/
def State.SameErrors (s t : State) : Prop := t.err = s.err ∧ t.errCause = s.errCause ∧ t.errOp = s.errOp

/-- The configuration and what the host will present are the same. -/
def State.SameSetting (s t : State) : Prop := t.cfg = s.cfg ∧ t.input = s.input

/-- `t` is `s` with `bs` appended to the frame (20_memory.md R31), but for the header marker, of which this says
nothing. -/
def State.Appended (s t : State) (bs : List Byte) : Prop :=
  t.pb.Holds s.len bs ∧ s.pb.SameOutside t.pb s.len bs.length ∧ t.len = s.len + bs.length ∧ s.SameErrors t ∧
    s.SameSetting t

/-- `t` is `s` with `bs` as its whole frame, from address 0 on, but for the header marker. -/
def State.Reframed (s t : State) (bs : List Byte) : Prop :=
  t.pb.Holds 0 bs ∧ s.pb.SameOutside t.pb 0 bs.length ∧ t.len = bs.length ∧ s.SameErrors t ∧ s.SameSetting t

/-- The header marker is the same. -/
def State.SameMarker (s t : State) : Prop := t.thv = s.thv ∧ t.tho = s.tho

/-- `s` after an error of kind `kind` and cause `cause` raised by selector `op` (60_exceptions.md R199). -/
def State.withError (s : State) (kind cause : BitVec 4) (op : Selector) : State :=
  { s with err := kind, errCause := cause, errOp := op }

/-- What a host can tell of two instances is the same: the output port, the error registers, the configuration, and what
PATCH_SIZE would reach (10_state.md R19; THO is dead while THV = 0, R20). -/
def State.Alike (s t : State) : Prop :=
  s.len = t.len ∧ (∀ a, a < s.len → s.pb.read a = t.pb.read a) ∧ s.thv = t.thv ∧ (s.thv = true → s.tho = t.tho) ∧
    s.err = t.err ∧ s.errCause = t.errCause ∧ s.errOp = t.errOp ∧ s.cfg = t.cfg

/-- A natural's low 8 bits. -/
def octet (n : Nat) : Byte := BitVec.ofNat 8 n

/-- Two bytes, most significant first. -/
def big16 (n : Nat) : List Byte := [octet (n / 2 ^ 8), octet n]

/-- Four bytes, most significant first. -/
def big32 (n : Nat) : List Byte := [octet (n / 2 ^ 24), octet (n / 2 ^ 16), octet (n / 2 ^ 8), octet n]

/-- Two bytes, least significant first. -/
def little16 (n : Nat) : List Byte := [octet n, octet (n / 2 ^ 8)]

/-- Four bytes, least significant first. -/
def little32 (n : Nat) : List Byte := [octet n, octet (n / 2 ^ 8), octet (n / 2 ^ 16), octet (n / 2 ^ 24)]

/-- The 14 bytes of 30_encoding.md R52. -/
def linkBytes (c : Cfg) (dst src : Mac) : List Byte :=
  [dst.o0, dst.o1, dst.o2, dst.o3, dst.o4, dst.o5, src.o0, src.o1, src.o2, src.o3, src.o4, src.o5] ++
    big16 c.etherType.toNat

/-- The 7 bytes of 30_encoding.md R53, R54. -/
def transportBytes (c : Cfg) (messageType flowId sequenceId payloadSize : Nat) : List Byte :=
  [octet (c.version.toNat * 2 ^ 4 + messageType % 4)] ++ big16 payloadSize ++ big16 flowId ++ big16 sequenceId

/-- The section-parameter word of 30_encoding.md R56 as a natural. -/
def sectionValue (c : Cfg) (a : AppOperands) : Nat :=
  a.sectionId % 4096 * 2 ^ 20 + c.rb.toNat * 2 ^ 19 + c.symInc.toNat * 2 ^ 18 + a.startRb % 1024 * 2 ^ 8 + a.numRb % 256

/-- The 8 bytes of 30_encoding.md R55, R57. -/
def appBytes (c : Cfg) (a : AppOperands) : List Byte :=
  [octet (c.dir.toNat * 2 ^ 7 + c.pver.toNat * 2 ^ 4 + c.filt.toNat), octet (a.frameId % 256),
      octet (a.subframeId % 16 * 2 ^ 4 + a.slotId % 16), octet (a.symbolId % 64 * 2 ^ 2)] ++
    big32 (sectionValue c a)

/-- The saturated sample value (00_scope.md R7, `clamp16`). -/
def saturated (v : Int) : Int := if v < -32768 then -32768 else if 32767 < v then 32767 else v

/-- The two bytes of one component: the saturated value modulo 2^16, high byte first (30_encoding.md R58). -/
def sampleBytes (v : Int) : List Byte := big16 (saturated v % 65536).toNat

/-- The IQ block of the pairs: I then Q of each, in order (30_encoding.md R58). -/
def blockBytes : List Sample → List Byte
  | [] => []
  | p :: ps => sampleBytes p.i ++ sampleBytes p.q ++ blockBytes ps

/-- The 24 bytes of 46_capture_container.md R171. -/
def globalBytes (c : Cfg) : List Byte :=
  [0xD4, 0xC3, 0xB2, 0xA1, 0x02, 0x00, 0x04, 0x00] ++ little32 c.thiszone.toNat ++ little32 c.sigfigs.toNat ++
    little32 c.snaplen.toNat ++ [0x01, 0x00, 0x00, 0x00]

/-- The 16 bytes of 46_capture_container.md R173. -/
def recordBytes (sec usec n : Nat) : List Byte := little32 sec ++ little32 usec ++ little32 n ++ little32 n

/-- Some of the four ids strict mode checks does not fit its field (30_encoding.md R61). -/
abbrev outOfRange (a : AppOperands) : Prop := 16 ≤ a.subframeId ∨ 16 ≤ a.slotId ∨ 64 ≤ a.symbolId ∨ 4096 ≤ a.sectionId

/-- The timestamp is a finite, non-negative number `v` of seconds that fit 32 bits; negative zero is zero
(46_capture_container.md R175, R177). -/
def acceptable (ts : Timestamp) (v : ℚ) : Prop :=
  (ts = .finite v ∨ (ts = .negZero ∧ v = 0)) ∧ 0 ≤ v ∧ ⌊v⌋ < 2 ^ 32

/-- The errors a command can raise, as (ERR, ERR_CAUSE) (60_exceptions.md R197), the container's commands with the
container present or not (30_encoding.md R71). -/
def canRaise (c : Cfg) : Instr → List (BitVec 4 × BitVec 4)
  | .beginFrame => []
  | .encEth _ _ => [(4, 0)]
  | .encTransport _ _ _ _ => [(4, 0)]
  | .patchSize _ => [(5, 0)]
  | .encApp _ => [(2, 3), (4, 0)]
  | .serIq _ _ => [(2, 1), (2, 2), (4, 0)]
  | .assemble _ _ _ _ _ _ _ _ => [(2, 3), (2, 1), (2, 2), (2, 4), (4, 0)]
  | .encGhdr => if c.hasContainer then (if c.pbCap < 24 then [(4, 0)] else []) else [(3, 0)]
  | .encRec _ => if c.hasContainer then [(2, 5), (2, 6), (4, 0)] else [(3, 0)]
  | .unassigned7 => [(3, 0)]
  | .unassignedAB _ => [(3, 0)]
  | .unassignedCF _ => [(3, 0)]

/-- LEN after a command that does not raise, from LEN before (10_state.md R12). -/
def lengthAfter (len : Nat) : Instr → Nat
  | .beginFrame => 0
  | .encEth _ _ => len + 14
  | .encTransport _ _ _ _ => len + 7
  | .patchSize _ => len
  | .encApp _ => len + 8
  | .serIq count _ => len + 4 * count.toNat
  | .assemble _ _ _ _ _ _ count _ => 29 + 4 * count.toNat
  | .encGhdr => 24
  | .encRec _ => len + 16
  | .unassigned7 => len
  | .unassignedAB _ => len
  | .unassignedCF _ => len

/-- THV after a command that does not raise, from THV before (10_state.md R13). -/
def markedAfter (thv : Bool) : Instr → Bool
  | .beginFrame => false
  | .encEth _ _ => thv
  | .encTransport _ _ _ _ => true
  | .patchSize _ => thv
  | .encApp _ => thv
  | .serIq _ _ => thv
  | .assemble _ _ _ _ _ _ _ _ => true
  | .encGhdr => false
  | .encRec _ => false
  | .unassigned7 => thv
  | .unassignedAB _ => thv
  | .unassignedCF _ => thv

/-- The command starts its own frame (70_reset_and_hazards.md R221: BEGIN, ASSEMBLE, ENC_GHDR). -/
def startsFrame : Instr → Bool
  | .beginFrame => true
  | .assemble _ _ _ _ _ _ _ _ => true
  | .encGhdr => true
  | .encEth _ _ => false
  | .encTransport _ _ _ _ => false
  | .patchSize _ => false
  | .encApp _ => false
  | .serIq _ _ => false
  | .encRec _ => false
  | .unassigned7 => false
  | .unassignedAB _ => false
  | .unassignedCF _ => false

/-- The command only appends to the frame and leaves the header marker alone (20_memory.md R31). -/
def plainAppend : Instr → Bool
  | .encEth _ _ => true
  | .encApp _ => true
  | .serIq _ _ => true
  | .beginFrame => false
  | .encTransport _ _ _ _ => false
  | .patchSize _ => false
  | .assemble _ _ _ _ _ _ _ _ => false
  | .encGhdr => false
  | .encRec _ => false
  | .unassigned7 => false
  | .unassignedAB _ => false
  | .unassignedCF _ => false

/-- Every value on the `PORT_W`-bit operand ports fits its port (10_state.md R11). -/
def portsFit (p : Ports) : Bool := fitsPort p.messageType && fitsPort p.seqIndex && p.app.fits

end Sys2Proof.Machine
end

