-- ==== Sys2Proof/Certificates/Slice0/Obligations.lean ====
section
/-! DEFINITION. The statements for the provers, one definition each; OBLIGATIONS.json lists them. The words they use
(Holds, Appended, Reframed, the byte lists in plain arithmetic) stand in Sys2Proof/Safety.lean. -/

open Sys2Proof Sys2Proof.Machine

/-! ### The step and the reset -/

/-- A command the host presents is taken off the port and run to completion (10_state.md R12, 20_memory.md R39). That
the host's inputs stand in a list is the model's choice (log 2). -/
def Obligations.StepRunsTheDecodedCommand : Prop :=
  ∀ (s : State) (c : Command) (rest : List HostInput), s.input = .command c :: rest →
    step s = exec (decode c.op c.ports) { s with input := rest }

/-- With nothing presented the block waits (10_state.md R20: after reset it waits for the first command; log 2). -/
def Obligations.IdleBlockWaits : Prop :=
  ∀ s : State, s.input = [] → step s = .next s

/-- 70_reset_and_hazards.md R220: the reset input gives the reset state from every state, the configuration unchanged,
and nothing else leaves a fault state. (PB is unspecified after reset; nothing is said of it.) -/
def Obligations.ResetInputGivesTheResetState : Prop :=
  (∀ (s : State) (rest : List HostInput), s.input = .reset :: rest →
    ∃ t, step s = .next t ∧ t.len = 0 ∧ t.thv = false ∧ t.tho = 0 ∧ t.err = 0 ∧ t.errCause = 0 ∧ t.errOp = 0 ∧
      t.cfg = s.cfg ∧ t.input = rest) ∧
  ∀ s t : State, s.err ≠ 0 → step s = .next t → t.err = 0 → ∃ rest, s.input = .reset :: rest

/-- 10_state.md R20: the reset values, for every configuration (PB is unspecified there, and nothing is said of it); every
command is legal as the first command; PATCH_SIZE raises PatchNoHeader. State.reset is such a state. -/
def Obligations.ResetStateAcceptsEveryFirstCommand : Prop :=
  State.reset = State.afterReset State.reset.cfg State.reset.input ∧
  ∀ (c : Cfg) (input : List HostInput) (s : State), s = State.afterReset c input →
    s.len = 0 ∧ s.thv = false ∧ s.tho = 0 ∧ s.err = 0 ∧ s.errCause = 0 ∧ s.errOp = 0 ∧ s.cfg = c ∧
      (∀ i : Instr, ∃ t, exec i s = .next t) ∧
      ∀ z : BitVec 16, exec (.patchSize z) s = .next (s.withError 5 0 3)

/-- 00_scope.md R6: the configuration values the document fixes, in the configuration State.reset has. -/
def Obligations.DocumentFixedDefaults : Prop :=
  State.reset.cfg.version = 1 ∧ State.reset.cfg.rb = 1 ∧ State.reset.cfg.symInc = 0 ∧ State.reset.cfg.strict = false ∧
    State.reset.cfg.numRbDefault = 273 ∧ State.reset.cfg.scPerRb = 12

/-- The invariant of Sys2Proof/Safety.lean is kept by every step. -/
def Obligations.EveryStepKeepsTheInvariant : Prop :=
  ∀ s t : State, s.Inv → step s = .next t → t.Inv

/-- The invariant holds at reset, for every configuration with `PB_CAP` of at least 29 and whatever the host presents. -/
def Obligations.ResetStateMeetsTheInvariant : Prop :=
  State.reset.Inv ∧ ∀ (c : Cfg) (input : List HostInput), 29 ≤ c.pbCap → (State.afterReset c input).Inv

/-- 70_reset_and_hazards.md R234: every command completes; and so does every step, whatever the host presents. -/
def Obligations.EveryCommandAndStepCompletes : Prop :=
  ∀ s : State, s.Inv → (∀ i : Instr, ∃ t, exec i s = .next t) ∧ ∃ t, step s = .next t

/-- The model's two faults and where they stand: PATCH_SIZE with a marked header that is not inside the frame (log 11),
ENC_REC with a byte of the frame never written (log 5); no command is ever refused. -/
def Obligations.StopsAreExactlyTheTwoFaults : Prop :=
  (∀ (i : Instr) (s : State) (r : Fault), exec i s = .fault r ↔
    (r = .accessOutsideFrame ∧ (∃ z, i = .patchSize z) ∧ s.err = 0 ∧ s.thv = true ∧ s.len < s.tho + 3) ∨
    (r = .unwrittenByte ∧ (∃ ts, i = .encRec ts ∧ badTimestamp ts = false) ∧ s.err = 0 ∧
      s.cfg.hasContainer = true ∧ 0 < s.len ∧ s.len + 16 ≤ s.cfg.pbCap ∧ ∃ a, a < s.len ∧ s.pb.read a = none)) ∧
  ∀ (i : Instr) (s : State) (r : Refusal), exec i s ≠ .refused r

/-! ### Errors -/

/-- 60_exceptions.md R200: while an error stands every command is refused and changes no state at all; only the reset
input clears it. -/
def Obligations.ErrorStateRefusesEveryCommand : Prop :=
  (∀ (i : Instr) (s : State), s.err ≠ 0 → exec i s = .next s) ∧
  ∀ s t : State, s.err ≠ 0 → step s = .next t →
    (t = { s with input := t.input } ∨ ∃ rest, s.input = .reset :: rest)

/-- 60_exceptions.md R199: a command that raises writes the three error registers, ERR_OP its own selector, and nothing
else. -/
def Obligations.RaisingWritesOnlyTheErrorRegisters : Prop :=
  ∀ (i : Instr) (s t : State), s.err = 0 → exec i s = .next t → t.err ≠ 0 →
    legalError t.err t.errCause = true ∧ t = s.withError t.err t.errCause i.selector

/-- A command that does not raise leaves the error registers, the configuration and the host's inputs as they were
(10_state.md R13, R14, R15). -/
def Obligations.CompletingLeavesErrorsAndConfiguration : Prop :=
  ∀ (i : Instr) (s t : State), s.err = 0 → exec i s = .next t → t.err = 0 → s.SameErrors t ∧ s.SameSetting t

/-- 60_exceptions.md R197, which the spec derives from its other rules: what each command can raise. -/
def Obligations.EachCommandRaisesOnlyItsErrors : Prop :=
  ∀ (i : Instr) (s t : State), s.err = 0 → exec i s = .next t → t.err ≠ 0 →
    (t.err, t.errCause) ∈ canRaise s.cfg i

/-- 60_exceptions.md R198: one command reports one error, the first that applies. Each clause gives the error a command
with several checks reports when one check fails and those before it hold. -/
def Obligations.TheFirstErrorIsReported : Prop :=
  ∀ s : State,
    (s.err ≠ 0 → ∀ i : Instr, exec i s = .next s) ∧
    (s.err = 0 →
      (∀ app : AppOperands,
        if s.cfg.strict = true ∧ outOfRange app then exec (.encApp app) s = .next (s.withError 2 3 4)
        else if s.cfg.pbCap < s.len + 8 then exec (.encApp app) s = .next (s.withError 4 0 4)
        else ∃ t, exec (.encApp app) s = .next t ∧ t.err = 0) ∧
      (∀ (count : Int) (samples : List Sample),
        if count < 0 then exec (.serIq count samples) s = .next (s.withError 2 1 5)
        else if (samples.length : Int) < count then exec (.serIq count samples) s = .next (s.withError 2 2 5)
        else if s.cfg.pbCap < s.len + 4 * count.toNat then exec (.serIq count samples) s = .next (s.withError 4 0 5)
        else ∃ t, exec (.serIq count samples) s = .next t ∧ t.err = 0) ∧
      (∀ (dst src : Mac) (mt : Nat) (flow : BitVec 16) (idx : Nat) (app : AppOperands) (count : Int)
          (samples : List Sample),
        if s.cfg.strict = true ∧ outOfRange app then
          exec (.assemble dst src mt flow idx app count samples) s = .next (s.withError 2 3 6)
        else if count < 0 then exec (.assemble dst src mt flow idx app count samples) s = .next (s.withError 2 1 6)
        else if (samples.length : Int) < count then
          exec (.assemble dst src mt flow idx app count samples) s = .next (s.withError 2 2 6)
        else if 65535 < 8 + 4 * count then
          exec (.assemble dst src mt flow idx app count samples) s = .next (s.withError 2 4 6)
        else if (s.cfg.pbCap : Int) < 29 + 4 * count then
          exec (.assemble dst src mt flow idx app count samples) s = .next (s.withError 4 0 6)
        else ∃ t, exec (.assemble dst src mt flow idx app count samples) s = .next t ∧ t.err = 0) ∧
      (∀ z : BitVec 16, s.thv = false → exec (.patchSize z) s = .next (s.withError 5 0 3)) ∧
      (if s.cfg.hasContainer = false then exec .encGhdr s = .next (s.withError 3 0 8)
        else if s.cfg.pbCap < 24 then exec .encGhdr s = .next (s.withError 4 0 8)
        else ∃ t, exec .encGhdr s = .next t ∧ t.err = 0) ∧
      (∀ ts : Timestamp,
        (s.cfg.hasContainer = false → exec (.encRec ts) s = .next (s.withError 3 0 9)) ∧
        (s.cfg.hasContainer = true → s.len = 0 → exec (.encRec ts) s = .next (s.withError 2 5 9)) ∧
        (s.cfg.hasContainer = true → 0 < s.len → (¬ ∃ v, acceptable ts v) →
          exec (.encRec ts) s = .next (s.withError 2 6 9)) ∧
        (s.cfg.hasContainer = true → 0 < s.len → (∃ v, acceptable ts v) → s.cfg.pbCap < s.len + 16 →
          exec (.encRec ts) s = .next (s.withError 4 0 9))))

/-! ### Frame control and the unassigned selectors -/

/-- 45_control.md R160: BEGIN empties the frame, clears THV, and touches nothing else; while an error stands it too is
refused. -/
def Obligations.BeginStartsAnEmptyFrame : Prop :=
  ∀ s : State,
    (s.err = 0 → exec .beginFrame s = .next { s with len := 0, thv := false }) ∧
    (s.err ≠ 0 → exec .beginFrame s = .next s)

/-- 60_exceptions.md R193, 30_encoding.md R71: an unassigned selector raises IllegalOp, cause 0, and ERR_OP is the selector
issued; without the container its two selectors are unassigned too. -/
def Obligations.UnassignedSelectorsRaiseIllegalOp : Prop :=
  ∀ s : State, s.err = 0 →
    exec .unassigned7 s = .next (s.withError 3 0 7) ∧
    (∀ b : BitVec 1, exec (.unassignedAB b) s = .next (s.withError 3 0 (BitVec.ofNat 4 (10 + b.toNat)))) ∧
    (∀ b : BitVec 2, exec (.unassignedCF b) s = .next (s.withError 3 0 (BitVec.ofNat 4 (12 + b.toNat)))) ∧
    (s.cfg.hasContainer = false →
      exec .encGhdr s = .next (s.withError 3 0 8) ∧ ∀ ts, exec (.encRec ts) s = .next (s.withError 3 0 9))

/-! ### The link-layer, transport and application headers -/

/-- 40_link_layer.md R80: ENC_ETH appends the 14-byte header, whatever the addresses, or raises BufferOverflow. -/
def Obligations.EncEthAppendsTheLinkHeader : Prop :=
  ∀ (s : State) (dst src : Mac), s.err = 0 →
    (s.len + 14 ≤ s.cfg.pbCap →
      ∃ t, exec (.encEth dst src) s = .next t ∧ s.Appended t (linkBytes s.cfg dst src) ∧ s.SameMarker t) ∧
    (s.cfg.pbCap < s.len + 14 → exec (.encEth dst src) s = .next (s.withError 4 0 1))

/-- 41_transport.md R90: ENC_TRANSPORT appends the 7-byte header and marks its place, or raises BufferOverflow. -/
def Obligations.EncTransportAppendsAndMarksTheHeader : Prop :=
  ∀ (s : State) (mt : Nat) (flow seq size : BitVec 16), s.err = 0 →
    (s.len + 7 ≤ s.cfg.pbCap →
      ∃ t, exec (.encTransport mt flow seq size) s = .next t ∧
        s.Appended t (transportBytes s.cfg mt flow.toNat seq.toNat size.toNat) ∧ t.thv = true ∧ t.tho = s.len) ∧
    (s.cfg.pbCap < s.len + 7 → exec (.encTransport mt flow seq size) s = .next (s.withError 4 0 2))

/-- 41_transport.md R93: PATCH_SIZE overwrites bytes 1 and 2 of the marked header and nothing else; without one it raises
PatchNoHeader. The header's lying inside the frame, which R93 says always holds, is a clause of the invariant. -/
def Obligations.PatchSizeOverwritesBytesOneAndTwo : Prop :=
  ∀ (s : State) (z : BitVec 16), s.err = 0 →
    (s.thv = true → s.tho + 2 < s.len →
      ∃ t, exec (.patchSize z) s = .next t ∧ t.pb.Holds (s.tho + 1) (big16 z.toNat) ∧
        s.pb.SameOutside t.pb (s.tho + 1) 2 ∧ t.len = s.len ∧ s.SameMarker t ∧ s.SameErrors t ∧ s.SameSetting t) ∧
    (s.thv = false → exec (.patchSize z) s = .next (s.withError 5 0 3))

/-- 20_memory.md R36: repeating PATCH_SIZE with the same operand leaves the same state. -/
def Obligations.PatchSizeIsIdempotent : Prop :=
  ∀ (s t : State) (z : BitVec 16), exec (.patchSize z) s = .next t → exec (.patchSize z) t = .next t

/-- 41_transport.md R93, 70_reset_and_hazards.md R225: patching in `LEN - THO - 7` makes the field the number of bytes
that follow the header. -/
def Obligations.PatchedSizeCountsWhatFollowsTheHeader : Prop :=
  ∀ s : State, s.Inv → s.err = 0 → s.thv = true → s.len < s.tho + 7 + 65536 →
    ∃ (t : State) (hi lo : Byte), exec (.patchSize (BitVec.ofNat 16 (s.len - s.tho - 7))) s = .next t ∧
      t.pb.read (t.tho + 1) = some hi ∧ t.pb.read (t.tho + 2) = some lo ∧
      t.tho + 7 + (hi.toNat * 256 + lo.toNat) = t.len

/-- 41_transport.md R94, which the spec derives from its other rules: payload size up front or patched afterwards, the
frame is the same. -/
def Obligations.UpFrontAndPatchedSizesAgree : Prop :=
  ∀ (s t : State) (mt : Nat) (flow seq size : BitVec 16) (mid : List Instr), s.err = 0 →
    (∀ i ∈ mid, plainAppend i = true) →
    execAll (.encTransport mt flow seq size :: mid) s = .next t → t.err = 0 →
    ∃ u, execAll (encTransportDeferred mt flow seq :: (mid ++ [.patchSize size])) s = .next u ∧ t.Alike u

/-- 42_application.md R105, R106: ENC_APP appends the 8-byte header of the masked operands; strict mode refuses an id that
does not fit; a full buffer raises BufferOverflow. -/
def Obligations.EncAppAppendsTheApplicationHeader : Prop :=
  ∀ (s : State) (app : AppOperands), s.err = 0 →
    (¬ (s.cfg.strict = true ∧ outOfRange app) → s.len + 8 ≤ s.cfg.pbCap →
      ∃ t, exec (.encApp app) s = .next t ∧ s.Appended t (appBytes s.cfg app) ∧ s.SameMarker t) ∧
    (s.cfg.strict = true → outOfRange app → exec (.encApp app) s = .next (s.withError 2 3 4)) ∧
    (¬ (s.cfg.strict = true ∧ outOfRange app) → s.cfg.pbCap < s.len + 8 →
      exec (.encApp app) s = .next (s.withError 4 0 4))

/-- 42_application.md R109, which the spec derives: unpacking an emitted application header returns every operand reduced
to its field's width, the two flag bits, and reserved bits of 0. -/
def Obligations.ApplicationHeaderUnpacksToMaskedOperands : Prop :=
  ∀ (s t : State) (app : AppOperands), s.err = 0 → exec (.encApp app) s = .next t → t.err = 0 →
    ∃ b0 b1 b2 b3 b4 b5 b6 b7 : Byte, t.pb.Holds s.len [b0, b1, b2, b3, b4, b5, b6, b7] ∧
      b0.toNat / 128 = s.cfg.dir.toNat ∧ b0.toNat / 16 % 8 = s.cfg.pver.toNat ∧ b0.toNat % 16 = s.cfg.filt.toNat ∧
      b1.toNat = app.frameId % 256 ∧ b2.toNat / 16 = app.subframeId % 16 ∧ b2.toNat % 16 = app.slotId % 16 ∧
      b3.toNat / 4 = app.symbolId % 64 ∧ b3.toNat % 4 = 0 ∧
      b4.toNat * 16 + b5.toNat / 16 = app.sectionId % 4096 ∧ b5.toNat / 8 % 2 = s.cfg.rb.toNat ∧
      b5.toNat / 4 % 2 = s.cfg.symInc.toNat ∧ b5.toNat % 4 * 256 + b6.toNat = app.startRb % 1024 ∧
      b7.toNat = app.numRb % 256

/-- 41_transport.md R90 and 30_encoding.md R53, R54 read back: an emitted transport header unpacks to the version, zero
reserved and concatenation bits, the masked message type and the three 16-bit operands. -/
def Obligations.TransportHeaderUnpacksToItsFields : Prop :=
  ∀ (s t : State) (mt : Nat) (flow seq size : BitVec 16), s.err = 0 →
    exec (.encTransport mt flow seq size) s = .next t → t.err = 0 →
    ∃ b0 b1 b2 b3 b4 b5 b6 : Byte, t.pb.Holds t.tho [b0, b1, b2, b3, b4, b5, b6] ∧
      b0.toNat / 16 = s.cfg.version.toNat ∧ b0.toNat / 4 % 4 = 0 ∧ b0.toNat % 4 = mt % 4 ∧
      b1 ++ b2 = size ∧ b3 ++ b4 = flow ∧ b5 ++ b6 = seq

/-- 42_application.md R108: a resource-block count of 273 is carried as 17, byte 7 of the header, and nothing else of the
header changes. -/
def Obligations.Count273IsCarriedAs17 : Prop :=
  ∀ (s : State) (app : AppOperands), s.err = 0 → ¬ (s.cfg.strict = true ∧ outOfRange app) →
    s.len + 8 ≤ s.cfg.pbCap →
    exec (.encApp { app with numRb := 273 }) s = exec (.encApp { app with numRb := 17 }) s ∧
    ∃ t, exec (.encApp { app with numRb := 273 }) s = .next t ∧ t.pb.read (s.len + 7) = some 0x11

/-- 30_encoding.md R60: without strict mode out-of-range operands are truncated, never rejected: a command gives what it
gives for the operands reduced to their fields. -/
def Obligations.OutOfRangeOperandsAreTruncated : Prop :=
  ∀ (s : State) (app : AppOperands), s.cfg.strict = false →
    exec (.encApp app) s =
      exec (.encApp ⟨app.frameId % 256, app.subframeId % 16, app.slotId % 16, app.symbolId % 64, app.sectionId % 4096,
        app.startRb % 1024, app.numRb % 256⟩) s ∧
    (∀ (mt : Nat) (flow seq size : BitVec 16),
      exec (.encTransport mt flow seq size) s = exec (.encTransport (mt % 4) flow seq size) s) ∧
    ∀ (dst src : Mac) (mt : Nat) (flow : BitVec 16) (idx : Nat) (count : Int) (samples : List Sample),
      exec (.assemble dst src mt flow idx app count samples) s =
        exec (.assemble dst src (mt % 4) flow (idx % 65536)
          ⟨app.frameId % 256, app.subframeId % 16, app.slotId % 16, app.symbolId % 64, app.sectionId % 4096,
            app.startRb % 1024, app.numRb % 256⟩ count samples) s

/-- 30_encoding.md R61: strict mode raises StrictRange when one of the four ids does not fit, and gives what the default
mode gives when all four fit; the other operands are masked in both modes. -/
def Obligations.StrictModeAddsOnlyTheRangeCheck : Prop :=
  ∀ (s : State) (app : AppOperands), s.err = 0 → s.cfg.strict = true →
    (outOfRange app →
      exec (.encApp app) s = .next (s.withError 2 3 4) ∧
      ∀ (dst src : Mac) (mt : Nat) (flow : BitVec 16) (idx : Nat) (count : Int) (samples : List Sample),
        exec (.assemble dst src mt flow idx app count samples) s = .next (s.withError 2 3 6)) ∧
    (¬ outOfRange app →
      (∃ t, exec (.encApp app) s = .next t ∧
        exec (.encApp app) { s with cfg := { s.cfg with strict := false } } =
          .next { t with cfg := { s.cfg with strict := false } }) ∧
      ∀ (dst src : Mac) (mt : Nat) (flow : BitVec 16) (idx : Nat) (count : Int) (samples : List Sample),
        ∃ t, exec (.assemble dst src mt flow idx app count samples) s = .next t ∧
          exec (.assemble dst src mt flow idx app count samples) { s with cfg := { s.cfg with strict := false } } =
            .next { t with cfg := { s.cfg with strict := false } })

/-! ### The IQ sample serializer -/

/-- 43_iq_serializer.md R120: SER_IQ appends the first `count` pairs, or raises NegCount, CountMismatch or BufferOverflow,
in that order. -/
def Obligations.SerIqAppendsTheSampleBlock : Prop :=
  ∀ (s : State) (count : Int) (samples : List Sample), s.err = 0 →
    (0 ≤ count → count ≤ samples.length → s.len + 4 * count.toNat ≤ s.cfg.pbCap →
      ∃ t, exec (.serIq count samples) s = .next t ∧ s.Appended t (blockBytes (samples.take count.toNat)) ∧
        t.len = s.len + 4 * count.toNat ∧ s.SameMarker t) ∧
    (count < 0 → exec (.serIq count samples) s = .next (s.withError 2 1 5)) ∧
    (0 ≤ count → (samples.length : Int) < count → exec (.serIq count samples) s = .next (s.withError 2 2 5)) ∧
    (0 ≤ count → count ≤ samples.length → s.cfg.pbCap < s.len + 4 * count.toNat →
      exec (.serIq count samples) s = .next (s.withError 4 0 5))

/-- 43_iq_serializer.md R121, R123: every component emitted, read back as a big-endian two's-complement value, lies in the
signed 16-bit range and is the input where that fits, else the nearer end of the range; pair `k` stands at offset `4k`,
I before Q. -/
def Obligations.EmittedSamplesReadBackSaturated : Prop :=
  ∀ (s t : State) (count : Int) (samples : List Sample), s.err = 0 → exec (.serIq count samples) s = .next t →
    t.err = 0 → ∀ (k : Nat) (p : Sample), (k : Int) < count → samples[k]? = some p →
      ∃ i1 i0 q1 q0 : Byte, t.pb.Holds (s.len + 4 * k) [i1, i0, q1, q0] ∧
        (i1 ++ i0).toInt = saturated p.i ∧ (q1 ++ q0).toInt = saturated p.q ∧
        -32768 ≤ (i1 ++ i0).toInt ∧ (i1 ++ i0).toInt ≤ 32767 ∧ -32768 ≤ (q1 ++ q0).toInt ∧ (q1 ++ q0).toInt ≤ 32767

/-- 43_iq_serializer.md R120: pairs beyond the first `count` are ignored, by ASSEMBLE too. -/
def Obligations.SurplusSamplesAreIgnored : Prop :=
  ∀ (s : State) (count : Int) (samples more : List Sample), count ≤ samples.length →
    exec (.serIq count (samples ++ more)) s = exec (.serIq count samples) s ∧
    ∀ (dst src : Mac) (mt : Nat) (flow : BitVec 16) (idx : Nat) (app : AppOperands),
      exec (.assemble dst src mt flow idx app count (samples ++ more)) s =
        exec (.assemble dst src mt flow idx app count samples) s

/-! ### The packet-frame composer -/

/-- 44_composer.md R140: ASSEMBLE builds the whole packet in a fresh frame, marks its transport header at 14, and changes
nothing else; or raises, in the order listed, and keeps the state before. -/
def Obligations.AssembleBuildsTheWholePacket : Prop :=
  ∀ (s : State) (dst src : Mac) (mt : Nat) (flow : BitVec 16) (idx : Nat) (app : AppOperands) (count : Int)
    (samples : List Sample), s.err = 0 →
    (¬ (s.cfg.strict = true ∧ outOfRange app) → 0 ≤ count → count ≤ samples.length → 8 + 4 * count ≤ 65535 →
      29 + 4 * count ≤ (s.cfg.pbCap : Int) →
      ∃ t, exec (.assemble dst src mt flow idx app count samples) s = .next t ∧
        s.Reframed t
          (linkBytes s.cfg dst src ++
            transportBytes s.cfg mt flow.toNat (idx % 65536) (8 + 4 * count.toNat) ++ appBytes s.cfg app ++
            blockBytes (samples.take count.toNat)) ∧
        t.len = 29 + 4 * count.toNat ∧ t.thv = true ∧ t.tho = 14) ∧
    (s.cfg.strict = true ∧ outOfRange app →
      exec (.assemble dst src mt flow idx app count samples) s = .next (s.withError 2 3 6)) ∧
    (¬ (s.cfg.strict = true ∧ outOfRange app) → count < 0 →
      exec (.assemble dst src mt flow idx app count samples) s = .next (s.withError 2 1 6)) ∧
    (¬ (s.cfg.strict = true ∧ outOfRange app) → 0 ≤ count → (samples.length : Int) < count →
      exec (.assemble dst src mt flow idx app count samples) s = .next (s.withError 2 2 6)) ∧
    (¬ (s.cfg.strict = true ∧ outOfRange app) → 0 ≤ count → count ≤ samples.length → 65535 < 8 + 4 * count →
      exec (.assemble dst src mt flow idx app count samples) s = .next (s.withError 2 4 6)) ∧
    (¬ (s.cfg.strict = true ∧ outOfRange app) → 0 ≤ count → count ≤ samples.length → 8 + 4 * count ≤ 65535 →
      (s.cfg.pbCap : Int) < 29 + 4 * count →
      exec (.assemble dst src mt flow idx app count samples) s = .next (s.withError 4 0 6))

/-- 44_composer.md R142, the load-bearing invariant: after every ASSEMBLE that does not raise, the 16-bit big-endian value
at PB[15..16] equals LEN - 21 and 8 + 4 * count. -/
def Obligations.AssembledPayloadSizeIsExact : Prop :=
  ∀ (s t : State) (dst src : Mac) (mt : Nat) (flow : BitVec 16) (idx : Nat) (app : AppOperands) (count : Int)
    (samples : List Sample), s.err = 0 → exec (.assemble dst src mt flow idx app count samples) s = .next t →
    t.err = 0 →
    ∃ hi lo : Byte, t.pb.read 15 = some hi ∧ t.pb.read 16 = some lo ∧ 21 ≤ t.len ∧
      hi.toNat * 256 + lo.toNat = t.len - 21 ∧ ((hi.toNat * 256 + lo.toNat : Nat) : Int) = 8 + 4 * count

/-- 44_composer.md R143: 16381 pairs are the most a packet holds; more raise SizeOverflow and build nothing, and a packet
is never longer than 65553 bytes; its size field is 8 + 4 * count (13112 for the domain's 3276 pairs). -/
def Obligations.OversizedPacketsAreRefused : Prop :=
  ∀ (s : State) (dst src : Mac) (mt : Nat) (flow : BitVec 16) (idx : Nat) (app : AppOperands) (count : Int)
    (samples : List Sample), s.err = 0 → ¬ (s.cfg.strict = true ∧ outOfRange app) → count ≤ samples.length →
    (16381 < count → exec (.assemble dst src mt flow idx app count samples) s = .next (s.withError 2 4 6)) ∧
    (0 ≤ count → count ≤ 16381 → 65553 ≤ s.cfg.pbCap →
      ∃ t, exec (.assemble dst src mt flow idx app count samples) s = .next t ∧ t.err = 0 ∧
        (t.len : Int) = 29 + 4 * count ∧ t.len ≤ 65553 ∧
        ∃ hi lo : Byte, t.pb.read 15 = some hi ∧ t.pb.read 16 = some lo ∧
          ((hi.toNat * 256 + lo.toNat : Nat) : Int) = 8 + 4 * count)

/-- 44_composer.md R144: ASSEMBLE reduces the sequence index modulo 65536 (bytes 19 and 20) and the frame id modulo 256
(byte 22), and keeps neither counter: indices that agree modulo 65536 give the same answer. -/
def Obligations.SequenceIndexIsReducedModulo65536 : Prop :=
  ∀ (s : State) (dst src : Mac) (mt : Nat) (flow : BitVec 16) (idx : Nat) (app : AppOperands) (count : Int)
    (samples : List Sample),
    (∀ k : Nat, exec (.assemble dst src mt flow (idx + 65536 * k) app count samples) s =
      exec (.assemble dst src mt flow idx app count samples) s) ∧
    ∀ t, s.err = 0 → exec (.assemble dst src mt flow idx app count samples) s = .next t → t.err = 0 →
      ∃ hi lo f : Byte, t.pb.read 19 = some hi ∧ t.pb.read 20 = some lo ∧ t.pb.read 22 = some f ∧
        hi.toNat * 256 + lo.toNat = idx % 65536 ∧ f.toNat = app.frameId % 256

/-- 44_composer.md R145, which the spec derives: where ASSEMBLE does not raise, BEGIN and the step commands, with the
payload size up front or patched afterwards, leave the same frame, length and header marker. -/
def Obligations.AssembleEqualsTheStepSequences : Prop :=
  ∀ (s t : State) (dst src : Mac) (mt : Nat) (flow : BitVec 16) (idx : Nat) (app : AppOperands) (count : Int)
    (samples : List Sample), s.err = 0 → exec (.assemble dst src mt flow idx app count samples) s = .next t →
    t.err = 0 →
    (∃ u, execAll (patternA dst src mt flow idx app count samples) s = .next u ∧ t.Alike u ∧ u.tho = t.tho) ∧
    ∃ u, execAll (patternB dst src mt flow idx app count samples) s = .next u ∧ t.Alike u ∧ u.tho = t.tho

/-- 44_composer.md R146: the sample count and the header's count field are independent: two packets that differ in the
`num_rb` operand alone differ in byte 28 at most. -/
def Obligations.CountFieldAndSampleCountAreIndependent : Prop :=
  ∀ (s t u : State) (dst src : Mac) (mt : Nat) (flow : BitVec 16) (idx : Nat) (app : AppOperands) (n : Nat)
    (count : Int) (samples : List Sample), s.err = 0 →
    exec (.assemble dst src mt flow idx app count samples) s = .next t →
    exec (.assemble dst src mt flow idx { app with numRb := n } count samples) s = .next u →
    u.len = t.len ∧ t.SameMarker u ∧ t.SameErrors u ∧ t.SameSetting u ∧ (∀ x, x ≠ 28 → u.pb.read x = t.pb.read x) ∧
      (t.err = 0 → u.pb.read 28 = some (octet n))

/-- MKPKT (44_composer.md R147, with the bytes of R140), for whatever samples the source delivers, exactly as many as asked
for (43_iq_serializer.md R125, R129, as log 10 models them): where ASSEMBLE does not refuse it, the default
(or given) resource-block count `n` gives the packet of `29 + 4 * SC_PER_RB * n` bytes with the configured addresses and
message type, the operands given, the right payload size, and the source's samples. -/
def Obligations.MkpktBuildsTheConfiguredPacket : Prop :=
  ∀ (s : State) (idx : Nat) (flow : BitVec 16) (app : AppOperands) (numRb : Option Nat) (pattern : Pattern)
    (seed n : Nat), s.err = 0 → ¬ (s.cfg.strict = true ∧ outOfRange app) → numRb.getD s.cfg.numRbDefault = n →
    8 + 4 * (s.cfg.scPerRb * n) ≤ 65535 → 29 + 4 * (s.cfg.scPerRb * n) ≤ s.cfg.pbCap →
    ∃ t, exec (mkpkt s.cfg idx flow app numRb pattern seed) s = .next t ∧
      s.Reframed t (linkBytes s.cfg s.cfg.dstMac s.cfg.srcMac ++
        transportBytes s.cfg s.cfg.msgType.toNat flow.toNat (idx % 65536) (8 + 4 * (s.cfg.scPerRb * n)) ++
        appBytes s.cfg { app with numRb := n } ++
        blockBytes (Config.iqSource pattern seed (s.cfg.scPerRb * n)).toList) ∧
      t.len = 29 + 4 * (s.cfg.scPerRb * n) ∧ t.thv = true ∧ t.tho = 14

/-- 44_composer.md R148 (2), the source's end-to-end scenario: 3276 pairs of any values give a packet of 13133 bytes whose
payload-size field is 13112, `33 38`. -/
def Obligations.EndToEndScenario : Prop :=
  ∀ (s : State) (dst src : Mac) (mt : Nat) (flow : BitVec 16) (idx : Nat) (app : AppOperands) (samples : List Sample),
    s.err = 0 → s.cfg.strict = false → 13133 ≤ s.cfg.pbCap → 3276 ≤ samples.length →
    ∃ t, exec (.assemble dst src mt flow idx app 3276 samples) s = .next t ∧ t.len = 13133 ∧
      t.pb.read 15 = some 0x33 ∧ t.pb.read 16 = some 0x38

/-! ### The capture container -/

/-- 46_capture_container.md R172 with the bytes of R171 (whose field widths the spec marks as general knowledge, log 13):
ENC_GHDR leaves the 24-byte global header as the whole frame. -/
def Obligations.EncGhdrLeavesTheGlobalHeader : Prop :=
  ∀ s : State, s.err = 0 → s.cfg.hasContainer = true →
    (24 ≤ s.cfg.pbCap →
      ∃ t, exec .encGhdr s = .next t ∧ s.Reframed t (globalBytes s.cfg) ∧ t.thv = false ∧ t.tho = s.tho) ∧
    (s.cfg.pbCap < 24 → exec .encGhdr s = .next (s.withError 4 0 8))

/-- 46_capture_container.md R175 with the bytes of R173 (whose order the spec marks as general knowledge, log 13) and the
split of R174 (timestamps are rationals, log 7): ENC_REC puts the 16-byte record header in front of the frame, the payload
unchanged behind it. `recordBytes` takes the low 32 bits of a length of any size (00_scope.md R7). -/
def Obligations.EncRecWrapsTheFrame : Prop :=
  ∀ (s : State) (ts : Timestamp) (v : ℚ) (payload : List Byte), s.err = 0 → s.cfg.hasContainer = true → 0 < s.len →
    s.len + 16 ≤ s.cfg.pbCap → s.outBytes = some payload → acceptable ts v →
    ∃ t : State, exec (.encRec ts) s = .next t ∧
      s.Reframed t (recordBytes ⌊v⌋.toNat ⌊(v - ⌊v⌋) * 1000000⌋.toNat s.len ++ payload) ∧ t.len = s.len + 16 ∧
      t.thv = false ∧ t.tho = s.tho

/-- 46_capture_container.md R174: the timestamp split is `floor(ts)` and `floor((ts - floor(ts)) * 10^6)`, evaluated
exactly, and the microseconds lie in [0, 999999]. -/
def Obligations.TimestampSplitIsExactAndBounded : Prop :=
  ∀ v : ℚ, (tsSplit v).1 = ⌊v⌋ ∧ (tsSplit v).2 = ⌊(v - ⌊v⌋) * 1000000⌋ ∧ 0 ≤ (tsSplit v).2 ∧ (tsSplit v).2 ≤ 999999

/-- 46_capture_container.md R176, which the spec derives from R174: the split is monotone in the lexicographic order. -/
def Obligations.TimestampSplitIsMonotone : Prop :=
  ∀ v w : ℚ, v ≤ w → (tsSplit v).1 < (tsSplit w).1 ∨ ((tsSplit v).1 = (tsSplit w).1 ∧ (tsSplit v).2 ≤ (tsSplit w).2)

/-! ### The whole machine -/

/-- 10_state.md R12: how each command that does not raise moves LEN; a command that raises leaves it; and LEN
never passes PB_CAP. -/
def Obligations.EachCommandMovesLenAsItsRuleSays : Prop :=
  ∀ (i : Instr) (s t : State), s.err = 0 → exec i s = .next t →
    (t.err = 0 → t.len = lengthAfter s.len i) ∧ (t.err ≠ 0 → t.len = s.len) ∧
      (s.len ≤ s.cfg.pbCap → t.len ≤ s.cfg.pbCap)

/-- 10_state.md R13: THV is set by ENC_TRANSPORT and ASSEMBLE, cleared by BEGIN, ENC_GHDR and ENC_REC, and by no other
command; a command that raises leaves it; PATCH_SIZE raises PatchNoHeader when it is 0. -/
def Obligations.HeaderMarkerFollowsItsRule : Prop :=
  ∀ (i : Instr) (s t : State), s.err = 0 → exec i s = .next t →
    (t.err = 0 → t.thv = markedAfter s.thv i) ∧ (t.err ≠ 0 → t.thv = s.thv) ∧
    ((∃ z, i = .patchSize z) → s.thv = false → t.err = 5)

/-- 70_reset_and_hazards.md R226: after BEGIN, ENC_GHDR or ENC_REC has completed, PATCH_SIZE raises PatchNoHeader. -/
def Obligations.NoHeaderIsLeftAfterBeginGhdrRec : Prop :=
  ∀ (i : Instr) (s t : State) (z : BitVec 16), i = .beginFrame ∨ i = .encGhdr ∨ (∃ ts, i = .encRec ts) →
    exec i s = .next t → s.err = 0 → t.err = 0 → exec (.patchSize z) t = .next (t.withError 5 0 3)

/-- 10_state.md R19: in every state that meets the invariant the output port shows exactly the LEN bytes of the frame. -/
def Obligations.OutputPortShowsTheFrame : Prop :=
  ∀ s : State, s.Inv → ∃ bs : List Byte, s.outBytes = some bs ∧ bs.length = s.outLen ∧ s.pb.Holds 0 bs

/-- 10_state.md R14: no step changes the configuration. -/
def Obligations.NoStepChangesTheConfiguration : Prop :=
  ∀ s t : State, step s = .next t → t.cfg = s.cfg

/-- 70_reset_and_hazards.md R221, which the spec derives: what a host observes after BEGIN, ASSEMBLE or ENC_GHDR has
completed, and after any commands that follow, does not depend on what ran before. -/
def Obligations.FreshFramesForgetThePast : Prop :=
  ∀ (i : Instr) (after : List Instr) (s1 s2 u1 t1 : State), startsFrame i = true → s1.err = 0 → s2.err = 0 →
    s1.errCause = s2.errCause → s1.errOp = s2.errOp → s1.cfg = s2.cfg →
    exec i s1 = .next u1 → u1.err = 0 → execAll after u1 = .next t1 →
    ∃ t2, execAll (i :: after) s2 = .next t2 ∧ t1.Alike t2

/-- 20_memory.md R40: instances share nothing: a step of one leaves every other as it was and is that instance's own
step. -/
def Obligations.InstancesShareNothing : Prop :=
  ∀ (k : Nat) (sys sys' : System), stepInstance k sys = .next sys' →
    sys'.length = sys.length ∧ (∀ j, j ≠ k → sys'[j]? = sys[j]?) ∧
    ∀ s, sys[k]? = some s → ∃ t, step s = .next t ∧ sys'[k]? = some t

/-! ### Encoding of commands -/

/-- Decoding what the encoder drives gives the command back, for every command and every operand (30_encoding.md R70; how
the ports are held is the model's choice, log 8). -/
def Obligations.DecodeOfEncodeIsTheCommand : Prop :=
  ∀ i : Instr, decode (encode i).op (encode i).ports = i

/-- 30_encoding.md R74: every 4-bit value matches exactly one row: whatever stands on the ports, the decoded command is one
with the selector presented; and a command with that selector is what the selector decodes to when the command's ports
are driven (how the ports are held and driven is the model's choice, log 8). -/
def Obligations.EverySelectorIsOneCommand : Prop :=
  ∀ (op : Selector) (p : Ports), (decode op p).selector = op ∧
    ∀ i : Instr, i.selector = op → decode op i.drivenPorts = i

/-- Each of the sixteen selector words of 30_encoding.md R70 and R71 decodes to its command, with every operand port at
zero; every word above the four selector lines is rejected by name, whatever stands on the ports (log 8). -/
def Obligations.SelectorWordsDecode : Prop :=
  decodeTableWord 8 0x0 = some .beginFrame ∧
    decodeTableWord 8 0x1 = some (.encEth zeroMac zeroMac) ∧
    decodeTableWord 8 0x2 = some (.encTransport 0 0 0 0) ∧
    decodeTableWord 8 0x3 = some (.patchSize 0) ∧
    decodeTableWord 8 0x4 = some (.encApp ⟨0, 0, 0, 0, 0, 0, 0⟩) ∧
    decodeTableWord 8 0x5 = some (.serIq 0 []) ∧
    decodeTableWord 8 0x6 =
      some (.assemble zeroMac zeroMac 0 0 0 ⟨0, 0, 0, 0, 0, 0, 0⟩ 0 []) ∧
    decodeTableWord 8 0x7 = some .unassigned7 ∧
    decodeTableWord 8 0x8 = some .encGhdr ∧
    decodeTableWord 8 0x9 = some (.encRec (.finite 0)) ∧
    decodeTableWord 8 0xA = some (.unassignedAB 0) ∧
    decodeTableWord 8 0xB = some (.unassignedAB 1) ∧
    decodeTableWord 8 0xC = some (.unassignedCF 0) ∧
    decodeTableWord 8 0xD = some (.unassignedCF 1) ∧
    decodeTableWord 8 0xE = some (.unassignedCF 2) ∧
    decodeTableWord 8 0xF = some (.unassignedCF 3) ∧
    ∀ w : Nat, 16 ≤ w →
      decodeTableWord 8 w = none ∧ ∀ p : Ports, decodeWord w p = .error (.selectorTooWide w)
end

