-- ==== Sys2Proof/Laws/Formats.lean ====
section
/-! SUPPORT. The lengths of the formats (spec/30_encoding.md R50, spec/46_capture_container.md R171, R173) and the bounds
of the timestamp split. -/

namespace Sys2Proof.Machine

@[simp] theorem be16_length (v : BitVec 16) : (be16 v).length = 2 := rfl
@[simp] theorem be32_length (v : BitVec 32) : (be32 v).length = 4 := rfl
@[simp] theorem le16_length (v : BitVec 16) : (le16 v).length = 2 := rfl
@[simp] theorem le32_length (v : BitVec 32) : (le32 v).length = 4 := rfl
@[simp] theorem macBytes_length (m : Mac) : (macBytes m).length = 6 := rfl
@[simp] theorem linkHeader_length (c : Cfg) (dst src : Mac) : (linkHeader c dst src).length = 14 := rfl

@[simp] theorem transportHeader_length (c : Cfg) (mt : Nat) (flow seq size : BitVec 16) :
    (transportHeader c mt flow seq size).length = 7 := rfl

@[simp] theorem appHeader_length (c : Cfg) (a : AppOperands) : (appHeader c a).length = 8 := rfl
@[simp] theorem iqPair_length (p : Sample) : (iqPair p).length = 4 := rfl

@[simp] theorem iqBlock_length (samples : List Sample) : (iqBlock samples).length = 4 * samples.length := by
  induction samples with
  | nil => rfl
  | cons p ps ih =>
    simp only [iqBlock, List.flatMap_cons, List.length_append, iqPair_length, List.length_cons] at ih ⊢
    omega

@[simp] theorem packet_length (c : Cfg) (dst src : Mac) (mt : Nat) (flow : BitVec 16) (idx : Nat) (a : AppOperands)
    (samples : List Sample) : (packet c dst src mt flow idx a samples).length = 29 + 4 * samples.length := by
  simp only [packet, List.length_append, linkHeader_length, transportHeader_length, appHeader_length, iqBlock_length]

@[simp] theorem globalHeader_length (c : Cfg) : (globalHeader c).length = 24 := rfl
@[simp] theorem recordHeader_length (x : Int × Int) (n : Nat) : (recordHeader x n).length = 16 := rfl

theorem usedSamples_length {count : Int} {samples : List Sample} (h : count ≤ samples.length) :
    (usedSamples count samples).length = count.toNat := by
  simp only [usedSamples, List.length_take]
  omega

theorem tooFewSamples_eq_false {count : Int} {samples : List Sample} :
    tooFewSamples count samples = false ↔ count ≤ samples.length := by
  simp [tooFewSamples]

theorem negCount_eq_false {count : Int} : negCount count = false ↔ 0 ≤ count := by
  simp [negCount]

theorem sizeOverflows_eq_false {count : Int} : sizeOverflows count = false ↔ 8 + 4 * count ≤ 65535 := by
  simp [sizeOverflows]

theorem strictRefuses_eq_false {c : Cfg} {a : AppOperands} :
    strictRefuses c a = false ↔
      (c.strict = true → a.subframeId < 16 ∧ a.slotId < 16 ∧ a.symbolId < 64 ∧ a.sectionId < 4096) := by
  cases h : c.strict <;> simp [strictRefuses, h, and_assoc]

end Sys2Proof.Machine
end

