-- ==== Sys2Proof/Laws/Bytes.lean ====
section
/-! SUPPORT. Each emitted format of Machine/Formats.lean, built from bit fields, equals the same format in plain arithmetic
on naturals (Safety.lean). -/

namespace Sys2Proof.Machine

@[simp] theorem big16_length (n : Nat) : (big16 n).length = 2 := rfl
@[simp] theorem big32_length (n : Nat) : (big32 n).length = 4 := rfl
@[simp] theorem little16_length (n : Nat) : (little16 n).length = 2 := rfl
@[simp] theorem little32_length (n : Nat) : (little32 n).length = 4 := rfl
@[simp] theorem linkBytes_length (c : Cfg) (dst src : Mac) : (linkBytes c dst src).length = 14 := by simp [linkBytes]

@[simp] theorem transportBytes_length (c : Cfg) (mt flow seq size : Nat) :
    (transportBytes c mt flow seq size).length = 7 := by simp [transportBytes]

@[simp] theorem appBytes_length (c : Cfg) (a : AppOperands) : (appBytes c a).length = 8 := by simp [appBytes]
@[simp] theorem globalBytes_length (c : Cfg) : (globalBytes c).length = 24 := by simp [globalBytes]

@[simp] theorem recordBytes_length (sec usec n : Nat) : (recordBytes sec usec n).length = 16 := by simp [recordBytes]

/-- Concatenating bit vectors is shifting and adding. -/
theorem toNat_append_eq {m n : Nat} (x : BitVec m) (y : BitVec n) : (x ++ y).toNat = x.toNat * 2 ^ n + y.toNat := by
  rw [BitVec.toNat_append, ← Nat.shiftLeft_add_eq_or_of_lt y.isLt, Nat.shiftLeft_eq]

theorem toNat_mask (w v : Nat) : (mask w v).toNat = v % 2 ^ w := BitVec.toNat_ofNat v w

theorem extract_eq_octet {w : Nat} (v : BitVec w) (k : Nat) : v.extractLsb' k 8 = octet (v.toNat / 2 ^ k) := by
  apply BitVec.eq_of_toNat_eq
  simp [octet, BitVec.extractLsb'_toNat, Nat.shiftRight_eq_div_pow]

theorem be16_eq (v : BitVec 16) : be16 v = big16 v.toNat := by
  simp [be16, big16, extract_eq_octet]

theorem be32_eq (v : BitVec 32) : be32 v = big32 v.toNat := by
  simp [be32, big32, extract_eq_octet]

theorem le16_eq (v : BitVec 16) : le16 v = little16 v.toNat := by
  simp [le16, little16, extract_eq_octet]

theorem le32_eq (v : BitVec 32) : le32 v = little32 v.toNat := by
  simp [le32, little32, extract_eq_octet]

/-- A byte is the octet of the natural it stands for. -/
theorem eq_octet_of_toNat {b : Byte} {n : Nat} (h : b.toNat = n) : b = octet n := by
  subst h
  simp [octet]

theorem linkHeader_eq (c : Cfg) (dst src : Mac) : linkHeader c dst src = linkBytes c dst src := by
  simp [linkHeader, linkBytes, macBytes, be16_eq]

theorem transportByte0_eq (c : Cfg) (mt : Nat) :
    transportByte0 c mt = octet (c.version.toNat * 2 ^ 4 + mt % 4) := by
  apply eq_octet_of_toNat
  simp only [transportByte0, toNat_append_eq, toNat_mask, BitVec.toNat_ofNat]
  omega

theorem transportHeader_eq (c : Cfg) (mt : Nat) (flow seq size : BitVec 16) :
    transportHeader c mt flow seq size = transportBytes c mt flow.toNat seq.toNat size.toNat := by
  simp [transportHeader, transportBytes, transportByte0_eq, be16_eq]

theorem sectionWord_eq (c : Cfg) (a : AppOperands) : (sectionWord c a).toNat = sectionValue c a := by
  simp only [sectionWord, sectionValue, toNat_append_eq, toNat_mask]
  omega

theorem appHeader_eq (c : Cfg) (a : AppOperands) : appHeader c a = appBytes c a := by
  have h0 : appByte0 c = octet (c.dir.toNat * 2 ^ 7 + c.pver.toNat * 2 ^ 4 + c.filt.toNat) := by
    apply eq_octet_of_toNat
    simp only [appByte0, toNat_append_eq]
    omega
  have h1 : mask 8 a.frameId = octet (a.frameId % 256) := eq_octet_of_toNat (toNat_mask 8 a.frameId)
  have h2 : appByte2 a = octet (a.subframeId % 16 * 2 ^ 4 + a.slotId % 16) := by
    apply eq_octet_of_toNat
    simp only [appByte2, toNat_append_eq, toNat_mask]
    omega
  have h3 : appByte3 a = octet (a.symbolId % 64 * 2 ^ 2) := by
    apply eq_octet_of_toNat
    simp only [appByte3, toNat_append_eq, toNat_mask, BitVec.toNat_ofNat]
    omega
  simp [appHeader, appBytes, h0, h1, h2, h3, be32_eq, sectionWord_eq]

theorem clamp16_eq (v : Int) : clamp16 v = saturated v := by
  unfold clamp16 saturated
  split
  · omega
  · split <;> omega

theorem tc16_toNat (v : Int) : (tc16 v).toNat = (v % 65536).toNat := by
  simp [tc16, BitVec.toNat_ofInt]

theorem iqBlock_eq (samples : List Sample) : iqBlock samples = blockBytes samples := by
  induction samples with
  | nil => rfl
  | cons p ps ih =>
    rw [blockBytes, ← ih]
    simp [iqBlock, iqPair, sampleBytes, be16_eq, tc16_toNat, clamp16_eq]

@[simp] theorem blockBytes_length (samples : List Sample) : (blockBytes samples).length = 4 * samples.length := by
  rw [← iqBlock_eq, iqBlock_length]

theorem globalHeader_eq (c : Cfg) : globalHeader c = globalBytes c := by
  have h1 : le32 0xa1b2c3d4#32 = [0xD4, 0xC3, 0xB2, 0xA1] := by decide
  have h2 : le16 2#16 = [0x02, 0x00] := by decide
  have h3 : le16 4#16 = [0x04, 0x00] := by decide
  have h4 : le32 1#32 = [0x01, 0x00, 0x00, 0x00] := by decide
  simp [globalHeader, globalBytes, h1, h2, h3, h4, le32_eq]

/-- Four bytes read the low 32 bits only. -/
theorem little32_mod (n : Nat) : little32 (n % 2 ^ 32) = little32 n := by
  have h (k : Nat) (hk : k ≤ 24) : octet (n % 2 ^ 32 / 2 ^ k) = octet (n / 2 ^ k) := by
    apply BitVec.eq_of_toNat_eq
    simp only [octet, BitVec.toNat_ofNat]
    interval_cases k <;> omega
  have h0 := h 0 (by omega)
  simp only [pow_zero, Nat.div_one] at h0
  simp only [little32, h0, h 8 (by omega), h 16 (by omega), h 24 (by omega)]

/-- The record header of a split into naturals. -/
theorem recordHeader_eq (sec usec n : Nat) : recordHeader ((sec : Int), (usec : Int)) n = recordBytes sec usec n := by
  simp only [recordHeader, recordBytes, le32_eq, toNat_mask, BitVec.ofInt_natCast, BitVec.toNat_ofNat, little32_mod]

theorem tsSeconds_eq_floor (v : ℚ) : tsSeconds v = ⌊v⌋ := (Rat.floor_def' (q := v)).symm

end Sys2Proof.Machine
end

