-- ==== Sys2Proof/Laws/Memory.lean ====
section
/-! SUPPORT. The packet buffer's laws: what a read gives after a write, that a write keeps the canonical form, and what
a read of several bytes answers. -/

namespace Sys2Proof.Machine

theorem Memory.read_append (m m' : Memory) (x : Nat) : Memory.read (m ++ m') x = (m.read x).or (m'.read x) := by
  induction m with
  | nil => simp [Memory.read, Memory.unlisted]
  | cons c m ih =>
    obtain ⟨y, b⟩ := c
    simp only [List.cons_append, Memory.read]
    split <;> simp_all

theorem Memory.read_filter (p : Nat → Bool) (m : Memory) (x : Nat) :
    Memory.read (m.filter fun c => p c.1) x = if p x then m.read x else none := by
  induction m with
  | nil => simp [Memory.read, Memory.unlisted]
  | cons c m ih =>
    obtain ⟨y, b⟩ := c
    by_cases hy : y = x
    · subst hy
      by_cases hp : p y <;> simp_all [Memory.read]
    · by_cases hp : p y <;> simp_all [Memory.read]

theorem Memory.read_cells (a : Nat) (bs : List Byte) (x : Nat) :
    Memory.read (Memory.cells a bs) x = if a ≤ x then bs[x - a]? else none := by
  induction bs generalizing a with
  | nil => simp [Memory.cells, Memory.read, Memory.unlisted]
  | cons b bs ih =>
    simp only [Memory.cells, Memory.read, ih]
    rcases Nat.lt_trichotomy a x with h | h | h
    · have e : x - a = (x - (a + 1)) + 1 := by omega
      have h1 : a + 1 ≤ x := h
      have h2 : a ≤ x := by omega
      have h3 : a ≠ x := by omega
      simp [h1, h2, h3, e]
    · subst h
      simp
    · have h1 : ¬ a + 1 ≤ x := by omega
      have h2 : ¬ a ≤ x := by omega
      have h3 : a ≠ x := by omega
      simp [h1, h2, h3]

/-- A READ AFTER A WRITE: the written bytes where they were written, everything else as before. -/
theorem Memory.read_write (m : Memory) (a : Nat) (bs : List Byte) (x : Nat) :
    (m.write a bs).read x = if a ≤ x ∧ x < a + bs.length then bs[x - a]? else m.read x := by
  have h1 := Memory.read_filter (fun y => decide (y < a)) m x
  have h2 := Memory.read_filter (fun y => decide (a + bs.length ≤ y)) m x
  simp only [decide_eq_true_eq] at h1 h2
  simp only [Memory.write, Memory.read_append, Memory.read_cells, h1, h2]
  rcases Nat.lt_or_ge x a with h | h
  · have h3 : ¬ a ≤ x := by omega
    have h4 : ¬ a + bs.length ≤ x := by omega
    simp [h, h3, h4]
  · rcases Nat.lt_or_ge x (a + bs.length) with g | g
    · have h3 : ¬ x < a := by omega
      have h4 : ¬ a + bs.length ≤ x := by omega
      simp [h, h3, h4, g]
    · have h3 : ¬ x < a := by omega
      have h4 : ¬ x < a + bs.length := by omega
      have h5 : bs.length ≤ x - a := by omega
      simp [h, h3, h4, g, List.getElem?_eq_none h5]

theorem Memory.read_write_inside (m : Memory) (a : Nat) (bs : List Byte) (k : Nat) (h : k < bs.length) :
    (m.write a bs).read (a + k) = some bs[k] := by
  rw [Memory.read_write, if_pos ⟨by omega, by omega⟩]
  simp [h]

theorem Memory.read_write_outside (m : Memory) (a : Nat) (bs : List Byte) (x : Nat) (h : x < a ∨ a + bs.length ≤ x) :
    (m.write a bs).read x = m.read x := by
  rw [Memory.read_write, if_neg (by omega)]

theorem Memory.cells_bounds (a : Nat) (bs : List Byte) : ∀ c ∈ Memory.cells a bs, a ≤ c.1 ∧ c.1 < a + bs.length := by
  induction bs generalizing a with
  | nil => simp [Memory.cells]
  | cons b bs ih =>
    intro c hc
    simp only [Memory.cells, List.mem_cons] at hc
    rcases hc with rfl | hc
    · simp
    · have := ih (a + 1) c hc
      simp only [List.length_cons]
      omega

theorem Memory.cells_rising (a : Nat) (bs : List Byte) :
    (Memory.cells a bs).Pairwise (fun c d => c.1 < d.1) := by
  induction bs generalizing a with
  | nil => simp [Memory.cells]
  | cons b bs ih =>
    simp only [Memory.cells, List.pairwise_cons]
    refine ⟨fun c hc => ?_, ih (a + 1)⟩
    have := Memory.cells_bounds (a + 1) bs c hc
    exact this.1

theorem Memory.wf_iff (m : Memory) : m.wf = true ↔ m.Pairwise (fun c d => c.1 < d.1) := by
  simp [Memory.wf, Memory.unlisted]

/-- Every write keeps the canonical form. -/
theorem Memory.write_wf (m : Memory) (a : Nat) (bs : List Byte) (h : m.wf = true) : (m.write a bs).wf = true := by
  rw [Memory.wf_iff] at h ⊢
  unfold Memory.write
  rw [List.append_assoc, List.pairwise_append, List.pairwise_append]
  refine ⟨h.filter _, ⟨Memory.cells_rising a bs, h.filter _, ?_⟩, ?_⟩
  · intro c hc d hd
    have := Memory.cells_bounds a bs c hc
    simp only [List.mem_filter, decide_eq_true_eq] at hd
    omega
  · intro c hc d hd
    simp only [List.mem_filter, decide_eq_true_eq, List.mem_append] at hc hd
    rcases hd with hd | hd
    · have := Memory.cells_bounds a bs d hd
      omega
    · omega

/-- A write lists no address outside the old ones and the written range. -/
theorem Memory.mem_write {m : Memory} {a : Nat} {bs : List Byte} {c : Host.Cell} (h : c ∈ m.write a bs) :
    c ∈ m ∨ (a ≤ c.1 ∧ c.1 < a + bs.length) := by
  simp only [Memory.write, List.mem_append, List.mem_filter] at h
  rcases h with (h | h) | h
  · exact .inl h.1
  · exact .inr (Memory.cells_bounds a bs c h)
  · exact .inl h.1

/-- What a read of `n` bytes answers: exactly the bytes that stand there, when all of them do. -/
theorem Memory.readBytes_eq_some (m : Memory) (a n : Nat) (bs : List Byte) :
    m.readBytes a n = some bs ↔ bs.length = n ∧ ∀ k (h : k < bs.length), m.read (a + k) = some bs[k] := by
  induction n generalizing a bs with
  | zero =>
    cases bs <;> simp [Memory.readBytes]
  | succ n ih =>
    cases bs with
    | nil =>
      simp only [Memory.readBytes]
      split <;> simp
    | cons b bs =>
      have key : m.readBytes a (n + 1) = some (b :: bs) ↔ m.read a = some b ∧ m.readBytes (a + 1) n = some bs := by
        simp only [Memory.readBytes]
        cases m.read a <;> cases m.readBytes (a + 1) n <;> simp
      rw [key, ih (a + 1) bs]
      constructor
      · rintro ⟨h0, hl, hk⟩
        refine ⟨by simp [hl], fun k hk' => ?_⟩
        cases k with
        | zero => simpa using h0
        | succ k =>
          have := hk k (by simpa using hk')
          rw [show a + (k + 1) = a + 1 + k by omega]
          simpa using this
      · rintro ⟨hl, hk⟩
        refine ⟨by simpa using hk 0 (Nat.zero_lt_succ _), by simpa using hl, fun k hk' => ?_⟩
        have := hk (k + 1) (by simpa using hk')
        rw [show a + 1 + k = a + (k + 1) by omega]
        simpa using this

/-- A read of bytes that all stand answers. -/
theorem Memory.readBytes_isSome (m : Memory) (a n : Nat) (h : ∀ x, a ≤ x → x < a + n → (m.read x).isSome) :
    (m.readBytes a n).isSome := by
  induction n generalizing a with
  | zero => simp [Memory.readBytes]
  | succ n ih =>
    obtain ⟨b, hb⟩ := Option.isSome_iff_exists.mp (h a (by omega) (by omega))
    obtain ⟨bs, hbs⟩ := Option.isSome_iff_exists.mp (ih (a + 1) fun x h1 h2 => h x (by omega) (by omega))
    simp [Memory.readBytes, hb, hbs]

/-- Two buffers that read alike on a range give the same bytes there. -/
theorem Memory.readBytes_congr (m m' : Memory) (a n : Nat) (h : ∀ x, a ≤ x → x < a + n → m.read x = m'.read x) :
    m.readBytes a n = m'.readBytes a n := by
  induction n generalizing a with
  | zero => rfl
  | succ n ih =>
    simp only [Memory.readBytes]
    rw [h a (by omega) (by omega), ih (a + 1) fun x h1 h2 => h x (by omega) (by omega)]

end Sys2Proof.Machine
end

