-- ==== Sys2Proof/Laws/State.lean ====
section
/-! SUPPORT. One lemma per field of State and per update, so that no proof unfolds a record update. -/

namespace Sys2Proof.Machine

@[simp] theorem State.append_pb (bs : List Byte) (s : State) : (s.append bs).pb = s.pb.write s.len bs := rfl
@[simp] theorem State.append_len (bs : List Byte) (s : State) : (s.append bs).len = s.len + bs.length := rfl
@[simp] theorem State.append_thv (bs : List Byte) (s : State) : (s.append bs).thv = s.thv := rfl
@[simp] theorem State.append_tho (bs : List Byte) (s : State) : (s.append bs).tho = s.tho := rfl
@[simp] theorem State.append_err (bs : List Byte) (s : State) : (s.append bs).err = s.err := rfl
@[simp] theorem State.append_errCause (bs : List Byte) (s : State) : (s.append bs).errCause = s.errCause := rfl
@[simp] theorem State.append_errOp (bs : List Byte) (s : State) : (s.append bs).errOp = s.errOp := rfl
@[simp] theorem State.append_cfg (bs : List Byte) (s : State) : (s.append bs).cfg = s.cfg := rfl
@[simp] theorem State.append_input (bs : List Byte) (s : State) : (s.append bs).input = s.input := rfl

@[simp] theorem State.truncate_pb (s : State) : s.truncate.pb = s.pb := rfl
@[simp] theorem State.truncate_len (s : State) : s.truncate.len = 0 := rfl
@[simp] theorem State.truncate_thv (s : State) : s.truncate.thv = s.thv := rfl
@[simp] theorem State.truncate_tho (s : State) : s.truncate.tho = s.tho := rfl
@[simp] theorem State.truncate_err (s : State) : s.truncate.err = s.err := rfl
@[simp] theorem State.truncate_errCause (s : State) : s.truncate.errCause = s.errCause := rfl
@[simp] theorem State.truncate_errOp (s : State) : s.truncate.errOp = s.errOp := rfl
@[simp] theorem State.truncate_cfg (s : State) : s.truncate.cfg = s.cfg := rfl
@[simp] theorem State.truncate_input (s : State) : s.truncate.input = s.input := rfl

@[simp] theorem State.markHeader_pb (o : Nat) (s : State) : (s.markHeader o).pb = s.pb := rfl
@[simp] theorem State.markHeader_len (o : Nat) (s : State) : (s.markHeader o).len = s.len := rfl
@[simp] theorem State.markHeader_thv (o : Nat) (s : State) : (s.markHeader o).thv = true := rfl
@[simp] theorem State.markHeader_tho (o : Nat) (s : State) : (s.markHeader o).tho = o := rfl
@[simp] theorem State.markHeader_err (o : Nat) (s : State) : (s.markHeader o).err = s.err := rfl
@[simp] theorem State.markHeader_errCause (o : Nat) (s : State) : (s.markHeader o).errCause = s.errCause := rfl
@[simp] theorem State.markHeader_errOp (o : Nat) (s : State) : (s.markHeader o).errOp = s.errOp := rfl
@[simp] theorem State.markHeader_cfg (o : Nat) (s : State) : (s.markHeader o).cfg = s.cfg := rfl
@[simp] theorem State.markHeader_input (o : Nat) (s : State) : (s.markHeader o).input = s.input := rfl

@[simp] theorem State.dropHeader_pb (s : State) : s.dropHeader.pb = s.pb := rfl
@[simp] theorem State.dropHeader_len (s : State) : s.dropHeader.len = s.len := rfl
@[simp] theorem State.dropHeader_thv (s : State) : s.dropHeader.thv = false := rfl
@[simp] theorem State.dropHeader_tho (s : State) : s.dropHeader.tho = s.tho := rfl
@[simp] theorem State.dropHeader_err (s : State) : s.dropHeader.err = s.err := rfl
@[simp] theorem State.dropHeader_errCause (s : State) : s.dropHeader.errCause = s.errCause := rfl
@[simp] theorem State.dropHeader_errOp (s : State) : s.dropHeader.errOp = s.errOp := rfl
@[simp] theorem State.dropHeader_cfg (s : State) : s.dropHeader.cfg = s.cfg := rfl
@[simp] theorem State.dropHeader_input (s : State) : s.dropHeader.input = s.input := rfl

@[simp] theorem State.applyReset_pb (s : State) : s.applyReset.pb = [] := rfl
@[simp] theorem State.applyReset_len (s : State) : s.applyReset.len = 0 := rfl
@[simp] theorem State.applyReset_thv (s : State) : s.applyReset.thv = false := rfl
@[simp] theorem State.applyReset_tho (s : State) : s.applyReset.tho = 0 := rfl
@[simp] theorem State.applyReset_err (s : State) : s.applyReset.err = 0 := rfl
@[simp] theorem State.applyReset_errCause (s : State) : s.applyReset.errCause = 0 := rfl
@[simp] theorem State.applyReset_errOp (s : State) : s.applyReset.errOp = 0 := rfl
@[simp] theorem State.applyReset_cfg (s : State) : s.applyReset.cfg = s.cfg := rfl
@[simp] theorem State.applyReset_input (s : State) : s.applyReset.input = s.input := rfl

@[simp] theorem State.afterReset_pb (c : Cfg) (input : List HostInput) : (State.afterReset c input).pb = [] := rfl
@[simp] theorem State.afterReset_len (c : Cfg) (input : List HostInput) : (State.afterReset c input).len = 0 := rfl
@[simp] theorem State.afterReset_thv (c : Cfg) (input : List HostInput) : (State.afterReset c input).thv = false := rfl
@[simp] theorem State.afterReset_tho (c : Cfg) (input : List HostInput) : (State.afterReset c input).tho = 0 := rfl
@[simp] theorem State.afterReset_err (c : Cfg) (input : List HostInput) : (State.afterReset c input).err = 0 := rfl
@[simp] theorem State.afterReset_errCause (c : Cfg) (input : List HostInput) : (State.afterReset c input).errCause = 0 := rfl
@[simp] theorem State.afterReset_errOp (c : Cfg) (input : List HostInput) : (State.afterReset c input).errOp = 0 := rfl
@[simp] theorem State.afterReset_cfg (c : Cfg) (input : List HostInput) : (State.afterReset c input).cfg = c := rfl
@[simp] theorem State.afterReset_input (c : Cfg) (input : List HostInput) : (State.afterReset c input).input = input := rfl

/-- Raising touches no field but the error registers. -/
theorem State.raise_eq (e : CmdError) (op : Selector) (s : State) :
    s.raise e op =
      { s with
        err := if s.err = 0 then e.kindCode else s.err, errCause := if s.err = 0 then e.causeCode else s.errCause,
        errOp := if s.err = 0 then op else s.errOp } := by
  unfold State.raise
  split <;> rfl

@[simp] theorem State.raise_pb (e : CmdError) (op : Selector) (s : State) : (s.raise e op).pb = s.pb := by
  rw [State.raise_eq]

@[simp] theorem State.raise_len (e : CmdError) (op : Selector) (s : State) : (s.raise e op).len = s.len := by
  rw [State.raise_eq]

@[simp] theorem State.raise_thv (e : CmdError) (op : Selector) (s : State) : (s.raise e op).thv = s.thv := by
  rw [State.raise_eq]

@[simp] theorem State.raise_tho (e : CmdError) (op : Selector) (s : State) : (s.raise e op).tho = s.tho := by
  rw [State.raise_eq]

@[simp] theorem State.raise_cfg (e : CmdError) (op : Selector) (s : State) : (s.raise e op).cfg = s.cfg := by
  rw [State.raise_eq]

@[simp] theorem State.raise_input (e : CmdError) (op : Selector) (s : State) : (s.raise e op).input = s.input := by
  rw [State.raise_eq]

/-- The first error is recorded (60_exceptions.md R199). -/
theorem State.raise_of_clear {s : State} (h : s.err = 0) (e : CmdError) (op : Selector) :
    s.raise e op = { s with err := e.kindCode, errCause := e.causeCode, errOp := op } := if_pos h

/-- A later error would change nothing (10_state.md R15). -/
theorem State.raise_of_faulted {s : State} (h : s.err ≠ 0) (e : CmdError) (op : Selector) : s.raise e op = s :=
  if_neg h

end Sys2Proof.Machine
end

