-- ==== Sys2Proof/Laws/Ops.lean ====
section
/-! SUPPORT. What each shared operation can do, said once. -/

namespace Sys2Proof.Machine

/-- While an error stands a command changes nothing (60_exceptions.md R200). -/
theorem runCommand_faulted {s : State} (h : s.err ≠ 0) (op : Selector) (checks : List (Bool × CmdError)) (effect : Answer) :
    runCommand op checks effect s = .next s := if_neg h

/-- The first check that holds raises its error (60_exceptions.md R198, R199). -/
theorem runCommand_raises {s : State} (h : s.err = 0) {checks : List (Bool × CmdError)} {e : CmdError}
    (hc : firstError checks = some e) (op : Selector) (effect : Answer) :
    runCommand op checks effect s =
      .next { s with err := e.kindCode, errCause := e.causeCode, errOp := op } := by
  simp [runCommand, h, hc, State.raise_of_clear h]

/-- With no error standing and no check holding, the command's answer is its effect. -/
theorem runCommand_runs {s : State} (h : s.err = 0) {checks : List (Bool × CmdError)} (hc : firstError checks = none)
    (op : Selector) (effect : Answer) : runCommand op checks effect s = effect := by
  simp [runCommand, h, hc]

/-- Everything a command can answer with a next state. -/
theorem runCommand_cases {op : Selector} {checks : List (Bool × CmdError)} {effect : Answer} {s t : State}
    (h : runCommand op checks effect s = .next t) :
    (s.err ≠ 0 ∧ t = s) ∨
      (s.err = 0 ∧ ∃ e, firstError checks = some e ∧
        t = { s with err := e.kindCode, errCause := e.causeCode, errOp := op }) ∨
      (s.err = 0 ∧ firstError checks = none ∧ effect = .next t) := by
  by_cases h0 : s.err = 0
  · cases hc : firstError checks with
    | some e =>
      rw [runCommand_raises h0 hc] at h
      injection h with h
      exact .inr (.inl ⟨h0, e, rfl, h.symm⟩)
    | none =>
      rw [runCommand_runs h0 hc] at h
      exact .inr (.inr ⟨h0, rfl, h⟩)
  · rw [runCommand_faulted h0] at h
    injection h with h
    exact .inl ⟨h0, h.symm⟩

theorem firstError_eq_none {checks : List (Bool × CmdError)} :
    firstError checks = none ↔ ∀ c ∈ checks, c.1 = false := by
  induction checks with
  | nil => simp [firstError]
  | cons c cs ih =>
    obtain ⟨b, e⟩ := c
    cases b <;> simp [firstError, ih]

/-- The error reported is one of the command's own, and its condition holds. -/
theorem firstError_mem {checks : List (Bool × CmdError)} {e : CmdError} (h : firstError checks = some e) :
    (true, e) ∈ checks := by
  induction checks with
  | nil => simp [firstError] at h
  | cons c cs ih =>
    obtain ⟨b, e'⟩ := c
    cases b
    · simp only [firstError, Bool.false_eq_true, if_false] at h
      exact List.mem_cons_of_mem _ (ih h)
    · simp only [firstError, if_true, Option.some.injEq] at h
      simp [h]

/-- Everything the patch can do: inside the frame the bytes are written and nothing else changes. -/
theorem State.memWrite_cases {a : Nat} {bs : List Byte} {s t : State} (h : s.memWrite a bs = .next t) :
    a + bs.length ≤ s.len ∧ t = { s with pb := s.pb.write a bs } := by
  unfold State.memWrite at h
  split at h
  · injection h with h
    exact ⟨by assumption, h.symm⟩
  · cases h

theorem State.memWrite_inside {a : Nat} {bs : List Byte} {s : State} (h : a + bs.length ≤ s.len) :
    s.memWrite a bs = .next { s with pb := s.pb.write a bs } := if_pos h

/-- Everything a read inside the frame can do: it hands on the bytes that stand there. -/
theorem State.memRead_cases {a n : Nat} {use : List Byte → Answer} {s t : State} (h : s.memRead a n use = .next t) :
    ∃ bs, s.pb.readBytes a n = some bs ∧ use bs = .next t := by
  unfold State.memRead at h
  split at h
  · exact ⟨_, by assumption, h⟩
  · cases h

theorem State.memRead_of_some {a n : Nat} {use : List Byte → Answer} {s : State} {bs : List Byte}
    (h : s.pb.readBytes a n = some bs) : s.memRead a n use = use bs := by
  simp [State.memRead, h]

theorem State.lacksRoom_eq_false {s : State} {a n : Nat} : s.lacksRoom a n = false ↔ a + n ≤ s.cfg.pbCap := by
  simp [State.lacksRoom]

theorem State.lacksRoom_eq_true {s : State} {a n : Nat} : s.lacksRoom a n = true ↔ s.cfg.pbCap < a + n := by
  simp [State.lacksRoom]

end Sys2Proof.Machine
end

