-- ==== Sys2Proof/Laws/Frames.lean ====
section
/-! SUPPORT. What the frame operations do, in the words of Safety.lean: an append, a fresh frame, a patch. -/

namespace Sys2Proof.Machine

theorem Memory.write_holds (m : Memory) (a : Nat) (bs : List Byte) : (m.write a bs).Holds a bs :=
  fun k h => m.read_write_inside a bs k h

theorem Memory.write_sameOutside (m : Memory) (a : Nat) (bs : List Byte) : m.SameOutside (m.write a bs) a bs.length :=
  fun x h => m.read_write_outside a bs x h

/-- An append appends, and leaves the rest as it was. -/
theorem State.append_appended (s : State) (bs : List Byte) : s.Appended (s.append bs) bs :=
  ⟨s.pb.write_holds s.len bs, s.pb.write_sameOutside s.len bs, rfl, ⟨rfl, rfl, rfl⟩, rfl, rfl⟩

/-- An append to the truncated frame is the whole frame. -/
theorem State.truncate_append_reframed (s : State) (bs : List Byte) : s.Reframed (s.truncate.append bs) bs :=
  ⟨s.pb.write_holds 0 bs, s.pb.write_sameOutside 0 bs, Nat.zero_add _, ⟨rfl, rfl, rfl⟩, rfl, rfl⟩

end Sys2Proof.Machine
end

