-- ==== Sys2Proof/Laws/PerInstr.lean ====
section
/-! SUPPORT. One family of statements made per command: the encoder drives a `PORT_W`-bit port with a value the port can
carry exactly when the command is well formed (spec/10_state.md R11), and leaves no other port with one that does not
fit. -/

namespace Sys2Proof.Laws.PortsFit

/-- The ports the encoder drives for the command fit exactly when the command's operands do. -/
def Statement (i : Instr) : Prop := Machine.portsFit (encode i).ports = i.wellFormed

/-- The application operands a command without them leaves on their ports fit. -/
theorem idle_app : AppOperands.fits ⟨0, 0, 0, 0, 0, 0, 0⟩ = true := by decide

theorem beginFrame : Statement .beginFrame := rfl

theorem encEth (dst : Mac) (src : Mac) : Statement (.encEth dst src) := rfl

theorem encTransport (messageType : Nat) (flowId : BitVec 16) (sequenceId : BitVec 16) (payloadSize : BitVec 16) : Statement (.encTransport messageType flowId sequenceId payloadSize) := by
  simp [Statement, Machine.portsFit, encode, Instr.drivenPorts, idlePorts, Instr.wellFormed, idle_app, fitsPort]
  rfl

theorem patchSize (payloadSize : BitVec 16) : Statement (.patchSize payloadSize) := rfl

theorem encApp (app : AppOperands) : Statement (.encApp app) := by
  simp [Statement, Machine.portsFit, encode, Instr.drivenPorts, idlePorts, Instr.wellFormed, fitsPort]

theorem serIq (count : Int) (samples : List Sample) : Statement (.serIq count samples) := rfl

theorem assemble (dst : Mac) (src : Mac) (messageType : Nat) (flowId : BitVec 16) (seqIndex : Nat) (app : AppOperands) (count : Int) (samples : List Sample) : Statement (.assemble dst src messageType flowId seqIndex app count samples) := rfl

theorem encGhdr : Statement .encGhdr := rfl

theorem encRec (ts : Timestamp) : Statement (.encRec ts) := rfl

theorem unassigned7 : Statement .unassigned7 := rfl

theorem unassignedAB (low : BitVec 1) : Statement (.unassignedAB low) := rfl

theorem unassignedCF (low : BitVec 2) : Statement (.unassignedCF low) := rfl

end Sys2Proof.Laws.PortsFit
end

