-- ==== Sys2Proof/Tests/Slice0.lean ====
section
/-! SUPPORT. Tests, each about one command on a small state, with expected results from spec/95_test_vectors.md (a
vector's name stands in the comment) or worked out by hand from a rule of spec/; then a witness for the hypotheses of
every statement that has some. -/

namespace Sys2Proof.Tests

open Sys2Proof.Machine

/-! ### Small configurations and states -/

def macD : Mac := ⟨0x00, 0x11, 0x22, 0x33, 0x44, 0x55⟩
def macS : Mac := ⟨0x66, 0x77, 0x88, 0x99, 0xAA, 0xBB⟩

/-- The configuration TC0 of 95_test_vectors.md. -/
def tc0 : Cfg where
  version := 1
  rb := 1
  symInc := 0
  etherType := 0xAEFE
  dstMac := macD
  srcMac := macS
  dir := 0
  pver := 1
  filt := 0
  msgType := 0
  numRbDefault := 273
  scPerRb := 12
  strict := false
  thiszone := 0
  sigfigs := 0
  snaplen := 65535
  pbCap := 65553
  hasContainer := true

/-- TC0 with strict mode. -/
def tcStrict : Cfg := { tc0 with strict := true }

/-- TC0 without the container unit. -/
def tcBare : Cfg := { tc0 with hasContainer := false }

/-- TC0 with a buffer of `n` bytes. -/
def tcCap (n : Nat) : Cfg := { tc0 with pbCap := n }

/-- A state with frame `bs` and nothing else in it. -/
def frame (c : Cfg) (bs : List Byte) : State := (State.afterReset c []).append bs

/-- A state whose frame is one transport header at 0, size 0 (V-TH row 8). -/
def headed (c : Cfg) : State := (frame c [0x10, 0, 0, 0, 0, 0, 0]).markHeader 0

/-- A state in which an error stands (kind 2, cause 3, command 4). -/
def broken : State := { State.afterReset tc0 [] with err := 2, errCause := 3, errOp := 4 }

def app0 : AppOperands := ⟨0, 0, 0, 0, 0, 0, 0⟩

/-- What the output port shows after the answer. -/
def bytesOf : Answer → Option (List Byte)
  | .next t => t.outBytes
  | .fault _ => none
  | .refused _ => none

/-- The error registers after the answer. -/
def errorOf : Answer → Option (Nat × Nat × Nat)
  | .next t => some (t.err.toNat, t.errCause.toNat, t.errOp.toNat)
  | .fault _ => none
  | .refused _ => none

/-- LEN, THV and THO after the answer. -/
def placeOf : Answer → Option (Nat × Bool × Nat)
  | .next t => some (t.len, t.thv, t.tho)
  | .fault _ => none
  | .refused _ => none

/-! ### Well-formedness: one ill-formed term for each check, which the check refuses (10_state.md R11) -/

theorem test_wf_limit : (Instr.encTransport 4294967295 0 0 0).wellFormed = true := by decide
theorem test_wf_transport_message_type : (Instr.encTransport 4294967296 0 0 0).wellFormed = false := by decide
theorem test_wf_frame_id : (Instr.encApp { app0 with frameId := 4294967296 }).wellFormed = false := by decide
theorem test_wf_subframe_id : (Instr.encApp { app0 with subframeId := 4294967296 }).wellFormed = false := by decide
theorem test_wf_slot_id : (Instr.encApp { app0 with slotId := 4294967296 }).wellFormed = false := by decide
theorem test_wf_symbol_id : (Instr.encApp { app0 with symbolId := 4294967296 }).wellFormed = false := by decide
theorem test_wf_section_id : (Instr.encApp { app0 with sectionId := 4294967296 }).wellFormed = false := by decide
theorem test_wf_start_rb : (Instr.encApp { app0 with startRb := 4294967296 }).wellFormed = false := by decide
theorem test_wf_num_rb : (Instr.encApp { app0 with numRb := 4294967296 }).wellFormed = false := by decide

theorem test_wf_assemble_message_type :
    (Instr.assemble macD macS 4294967296 0 0 app0 0 []).wellFormed = false := by decide

theorem test_wf_assemble_seq_index :
    (Instr.assemble macD macS 0 0 4294967296 app0 0 []).wellFormed = false := by decide

theorem test_wf_assemble_app :
    (Instr.assemble macD macS 0 0 0 { app0 with numRb := 4294967296 } 0 []).wellFormed = false := by decide

/-! ### Decoding: selector words bit by bit from the table of 30_encoding.md R70, R71, with distinct values on the ports -/

/-- A different value on every port. -/
def ports : Ports where
  dst := macD
  src := macS
  messageType := 1
  flowId := 2
  sequenceId := 3
  payloadSize := 4
  seqIndex := 5
  app := ⟨6, 7, 8, 9, 10, 11, 12⟩
  count := 2
  samples := [⟨1, -1⟩, ⟨2, -2⟩]
  ts := .finite 1

theorem test_decode_begin : decode 0b0000 ports = .beginFrame := by decide
theorem test_decode_enc_eth : decode 0b0001 ports = .encEth macD macS := by decide
theorem test_decode_enc_transport : decode 0b0010 ports = .encTransport 1 2 3 4 := by decide
theorem test_decode_patch_size : decode 0b0011 ports = .patchSize 4 := by decide
theorem test_decode_enc_app : decode 0b0100 ports = .encApp ⟨6, 7, 8, 9, 10, 11, 12⟩ := by decide
theorem test_decode_ser_iq : decode 0b0101 ports = .serIq 2 [⟨1, -1⟩, ⟨2, -2⟩] := by decide

theorem test_decode_assemble :
    decode 0b0110 ports = .assemble macD macS 1 2 5 ⟨6, 7, 8, 9, 10, 11, 12⟩ 2 [⟨1, -1⟩, ⟨2, -2⟩] := by decide

theorem test_decode_unassigned7 : decode 0b0111 ports = .unassigned7 := by decide
theorem test_decode_enc_ghdr : decode 0b1000 ports = .encGhdr := by decide
theorem test_decode_enc_rec : decode 0b1001 ports = .encRec (.finite 1) := by rfl
theorem test_decode_unassigned_a : decode 0b1010 ports = .unassignedAB 0 := by decide
theorem test_decode_unassigned_b : decode 0b1011 ports = .unassignedAB 1 := by decide
theorem test_decode_unassigned_c : decode 0b1100 ports = .unassignedCF 0 := by decide
theorem test_decode_unassigned_f : decode 0b1111 ports = .unassignedCF 3 := by decide
theorem test_decode_too_wide : decodeTableWord 8 16 = none := by decide

/-! ### One command each -/

/-- V-CTL row 1. -/
theorem test_begin : placeOf (exec .beginFrame (headed tc0)) = some (0, false, 0) := by decide

/-- V-CTL row 5. -/
theorem test_begin_refused : exec .beginFrame broken = .next broken := rfl

/-- V-LL row 1. -/
theorem test_enc_eth : bytesOf (exec (.encEth macD macS) (State.afterReset tc0 [])) =
    some [0x00, 0x11, 0x22, 0x33, 0x44, 0x55, 0x66, 0x77, 0x88, 0x99, 0xAA, 0xBB, 0xAE, 0xFE] := by decide

/-- V-ERR row 1, with a shorter frame: 14 bytes do not fit a 28-byte buffer that holds 15. -/
theorem test_enc_eth_overflow :
    errorOf (exec (.encEth macD macS) (frame (tcCap 28) (List.replicate 15 0))) = some (4, 0, 1) := by decide

/-- V-TH row 10: the order of the fields. -/
theorem test_enc_transport : bytesOf (exec (.encTransport 2 0x0102 0x0304 0x0506) (State.afterReset tc0 [])) =
    some [0x12, 0x05, 0x06, 0x01, 0x02, 0x03, 0x04] := by decide

/-- V-TH row 11 behind one byte: version 2, message type 7 masked to 3, THO is the old LEN. -/
theorem test_enc_transport_marks :
    bytesOf (exec (.encTransport 7 0xABCD 0xFFFF 0xFFFF) (frame { tc0 with version := 2 } [0x55])) =
        some [0x55, 0x23, 0xFF, 0xFF, 0xAB, 0xCD, 0xFF, 0xFF] ∧
      placeOf (exec (.encTransport 7 0xABCD 0xFFFF 0xFFFF) (frame { tc0 with version := 2 } [0x55])) =
        some (8, true, 1) := by decide

/-- V-PATCH row 1. -/
theorem test_patch_size : bytesOf (exec (.patchSize 0x3338) (headed tc0)) =
    some [0x10, 0x33, 0x38, 0x00, 0x00, 0x00, 0x00] := by decide

/-- V-PATCH row 4. -/
theorem test_patch_size_no_header :
    errorOf (exec (.patchSize 5) (State.afterReset tc0 [])) = some (5, 0, 3) := by decide

/-- V-AH row 17. -/
theorem test_enc_app :
    bytesOf (exec (.encApp ⟨7, 1, 2, 3, 0xABC, 0x155, 106⟩)
        (State.afterReset { tc0 with dir := 1, pver := 2, filt := 5, rb := 0, symInc := 1 } [])) =
      some [0xA5, 0x07, 0x12, 0x0C, 0xAB, 0xC5, 0x55, 0x6A] := by decide

/-- V-AH row 5: every field one wrap too large. -/
theorem test_enc_app_masks :
    bytesOf (exec (.encApp ⟨261, 19, 25, 77, 4196, 1029, 273⟩) (State.afterReset tc0 [])) =
      some [0x10, 0x05, 0x39, 0x34, 0x06, 0x48, 0x05, 0x11] := by decide

/-- V-IQ rows 3, 4, 6 and 7. -/
theorem test_ser_iq :
    bytesOf (exec (.serIq 4 [⟨32767, -32768⟩, ⟨32768, -32769⟩, ⟨256, -256⟩, ⟨-2, 2⟩]) (State.afterReset tc0 [])) =
      some [0x7F, 0xFF, 0x80, 0x00, 0x7F, 0xFF, 0x80, 0x00, 0x01, 0x00, 0xFF, 0x00, 0xFF, 0xFE, 0x00, 0x02] := by
  decide

/-- V-IQ row 12. -/
theorem test_ser_iq_mismatch :
    errorOf (exec (.serIq 2 [⟨1, 1⟩]) (State.afterReset tc0 [])) = some (2, 2, 5) := by decide

/-- V-ASM row 2, from the end of the link-layer header on, in a buffer that held another frame (row 11). -/
theorem test_assemble :
    (bytesOf (exec (.assemble macD macS 0 0x1234 0 ⟨0, 0, 0, 0, 0, 0, 273⟩ 1 [⟨1, -1⟩]) (headed tc0))).map
        (List.drop 12) =
      some [0xAE, 0xFE, 0x10, 0x00, 0x0C, 0x12, 0x34, 0x00, 0x00, 0x10, 0x00, 0x00, 0x00, 0x00, 0x08, 0x00, 0x11, 0x00,
        0x01, 0xFF, 0xFF] := by decide

/-- V-ASM row 8: StrictRange before NegCount. -/
theorem test_assemble_strict_first :
    errorOf (exec (.assemble macD macS 0 1 0 { app0 with sectionId := 4096 } (-1) []) (State.afterReset tcStrict [])) =
      some (2, 3, 6) := by decide

/-- V-GH row 2. -/
theorem test_enc_ghdr :
    bytesOf (exec .encGhdr
        (State.afterReset { tc0 with thiszone := 0xFFFFF1F0, sigfigs := 6, snaplen := 262144 } [])) =
      some [0xD4, 0xC3, 0xB2, 0xA1, 0x02, 0x00, 0x04, 0x00, 0xF0, 0xF1, 0xFF, 0xFF, 0x06, 0x00, 0x00, 0x00, 0x00, 0x00,
        0x04, 0x00, 0x01, 0x00, 0x00, 0x00] := by decide

/-- V-CTL row 4. -/
theorem test_enc_ghdr_absent : errorOf (exec .encGhdr (State.afterReset tcBare [])) = some (3, 0, 8) := by decide

/-- V-REC row 4 on a frame of one byte: 1700000000.25. -/
theorem test_enc_rec :
    bytesOf (exec (.encRec (.finite (mkRat 6800000001 4))) (frame tc0 [0xAB])) =
      some [0x00, 0xF1, 0x53, 0x65, 0x90, 0xD0, 0x03, 0x00, 0x01, 0x00, 0x00, 0x00, 0x01, 0x00, 0x00, 0x00, 0xAB] := by
  decide

/-- 46_capture_container.md R173 with 00_scope.md R7, by hand: LE32 of a length of 2^32 + 33 is `21 00 00 00`. -/
theorem test_record_header_wide :
    (recordHeader (1, 2) 4294967329).drop 4 =
      [0x02, 0x00, 0x00, 0x00, 0x21, 0x00, 0x00, 0x00, 0x21, 0x00, 0x00, 0x00] := by decide

/-- V-REC row 12: the seconds do not fit 32 bits. -/
theorem test_enc_rec_too_late :
    errorOf (exec (.encRec (.finite (mkRat 4294967296 1))) (frame tc0 [0xAB])) = some (2, 6, 9) := by decide

/-- V-CTL row 3. -/
theorem test_unassigned7 : errorOf (exec .unassigned7 (headed tc0)) = some (3, 0, 7) := by decide

/-- V-CTL row 3. -/
theorem test_unassigned_b : errorOf (exec (.unassignedAB 1) (headed tc0)) = some (3, 0, 11) := by decide

/-- V-CTL row 3. -/
theorem test_unassigned_f : errorOf (exec (.unassignedCF 3) (headed tc0)) = some (3, 0, 15) := by decide

/-- V-ERR row 3. -/
theorem test_step_reset :
    placeOf (step { broken with input := [.reset] }) = some (0, false, 0) ∧
      errorOf (step { broken with input := [.reset] }) = some (0, 0, 0) := by decide

/-- The probe of the host runs the command it places (log 2). -/
theorem test_with_fetch_word : errorOf (step (State.reset.withFetchWord 8 7)) = some (3, 0, 7) := by decide

/-! ### Witnesses: for each statement with hypotheses, a state and operands that meet them, clause by clause -/

/-- The command that encodes an instruction, presented next. -/
def presenting (s : State) (i : Instr) : State := { s with input := [.command (encode i)] }

/-- A frame of one byte, with a capacity of `n`. -/
def oneByte (n : Nat) : State := frame (tcCap n) [0xAB]

/-- A transport header whose bytes the patch reaches, though not all seven are there: LEN = THO + 3. -/
def barely : State := (frame tc0 [0x10, 0, 0]).markHeader 0

/-- The same with one byte less: PATCH_SIZE faults (log 11). -/
def torn : State := (frame tc0 [0x10, 0]).markHeader 0

/-- A frame of one byte that was never written: ENC_REC faults (log 5). -/
def hollow : State := { State.afterReset tc0 [] with len := 1 }

theorem headed_inv : (headed tc0).Inv where
  cap := by decide
  len_le := by decide
  tho_le := by decide
  header := by decide
  wf := by decide
  inside := by decide
  written := by decide
  error := by decide
  quiet := by decide

theorem witness_StepRunsTheDecodedCommand :
    (presenting (headed tc0) .beginFrame).input = .command (encode .beginFrame) :: [] := rfl

theorem witness_IdleBlockWaits : State.reset.input = [] := rfl

theorem witness_ResetInput_clears : ({ broken with input := [.reset] } : State).input = .reset :: [] := rfl

theorem witness_ResetInput_only_reset_leaves :
    ∃ t, ({ broken with input := [.reset] } : State).err ≠ 0 ∧ step { broken with input := [.reset] } = .next t ∧
      t.err = 0 := ⟨_, by decide, rfl, rfl⟩

theorem witness_ResetStateAcceptsEveryFirstCommand : ∃ s, s = State.afterReset tc0 [] := ⟨_, rfl⟩

theorem witness_EveryStepKeepsTheInvariant :
    ∃ (s t : State), s.Inv ∧ step s = .next t ∧ t.thv = true ∧ t.len = 7 :=
  ⟨headed tc0, headed tc0, headed_inv, rfl, rfl, rfl⟩

theorem witness_ResetStateMeetsTheInvariant : 29 ≤ (tcCap 29).pbCap := by decide

theorem witness_EveryCommandAndStepCompletes : (headed tc0).Inv := headed_inv

theorem witness_Stops_patch : exec (.patchSize 1) torn = .fault .accessOutsideFrame := rfl

theorem witness_Stops_rec : exec (.encRec .negZero) hollow = .fault .unwrittenByte := rfl

theorem witness_ErrorStateRefuses_exec : broken.err ≠ 0 := by decide

theorem witness_ErrorStateRefuses_step :
    ∃ t, (presenting broken .beginFrame).err ≠ 0 ∧ step (presenting broken .beginFrame) = .next t :=
  ⟨_, by decide, rfl⟩

theorem witness_Raising :
    ∃ t, (headed tc0).err = 0 ∧ exec .unassigned7 (headed tc0) = .next t ∧ t.err ≠ 0 := ⟨_, rfl, rfl, by decide⟩

theorem witness_Completing :
    ∃ t, (headed tc0).err = 0 ∧ exec (.patchSize 5) (headed tc0) = .next t ∧ t.err = 0 := ⟨_, rfl, rfl, rfl⟩

theorem witness_EachCommandRaises :
    ∃ t, (headed tcBare).err = 0 ∧ exec (.encRec .nan) (headed tcBare) = .next t ∧ t.err ≠ 0 :=
  ⟨_, rfl, rfl, by decide⟩

/-! The first error: each clause at its boundary. -/

theorem witness_First_app_strict :
    tcStrict.strict = true ∧ outOfRange { app0 with slotId := 16 } ∧ ¬ outOfRange { app0 with slotId := 15 } := by
  decide

theorem witness_First_app_room :
    (oneByte 8).cfg.pbCap < (oneByte 8).len + 8 ∧ ¬ (oneByte 9).cfg.pbCap < (oneByte 9).len + 8 := by decide

theorem witness_First_iq :
    errorOf (exec (.serIq (-1) []) (oneByte 4)) = some (2, 1, 5) ∧
      errorOf (exec (.serIq 1 []) (oneByte 4)) = some (2, 2, 5) ∧
      errorOf (exec (.serIq 1 [⟨1, 1⟩]) (oneByte 4)) = some (4, 0, 5) ∧
      errorOf (exec (.serIq 1 [⟨1, 1⟩]) (oneByte 5)) = some (0, 0, 0) ∧
      errorOf (exec (.serIq 0 []) (oneByte 4)) = some (0, 0, 0) := by decide

theorem witness_First_assemble :
    errorOf (exec (.assemble macD macS 0 0 0 { app0 with symbolId := 64 } (-1) []) (frame tcStrict [0])) =
        some (2, 3, 6) ∧
      errorOf (exec (.assemble macD macS 0 0 0 app0 (-1) []) (frame tcStrict [0])) = some (2, 1, 6) ∧
      errorOf (exec (.assemble macD macS 0 0 0 app0 1 []) (oneByte 28)) = some (2, 2, 6) ∧
      errorOf (exec (.assemble macD macS 0 0 0 app0 0 []) (oneByte 28)) = some (4, 0, 6) ∧
      errorOf (exec (.assemble macD macS 0 0 0 app0 0 []) (oneByte 29)) = some (0, 0, 0) := by decide

theorem witness_First_ghdr :
    errorOf (exec .encGhdr (frame { tcBare with pbCap := 23 } [0])) = some (3, 0, 8) ∧
      errorOf (exec .encGhdr (oneByte 23)) = some (4, 0, 8) ∧
      errorOf (exec .encGhdr (oneByte 24)) = some (0, 0, 0) := by decide

theorem witness_First_rec :
    errorOf (exec (.encRec .nan) (frame tcBare [])) = some (3, 0, 9) ∧
      errorOf (exec (.encRec .nan) (frame tc0 [])) = some (2, 5, 9) ∧
      errorOf (exec (.encRec .nan) (oneByte 16)) = some (2, 6, 9) ∧
      errorOf (exec (.encRec .negZero) (oneByte 16)) = some (4, 0, 9) ∧
      errorOf (exec (.encRec .negZero) (oneByte 17)) = some (0, 0, 0) := by decide

theorem acceptable_zero : ∃ v, acceptable .negZero v := ⟨0, .inr ⟨rfl, rfl⟩, by norm_num, by norm_num⟩

theorem not_acceptable_nan : ¬ ∃ v, acceptable .nan v := by
  rintro ⟨v, h | h, -⟩
  · exact Timestamp.noConfusion h
  · exact Timestamp.noConfusion h.1

theorem witness_Begin : (headed tc0).err = 0 ∧ broken.err ≠ 0 := by decide

theorem witness_Unassigned : (headed tcBare).err = 0 ∧ (headed tcBare).cfg.hasContainer = false := by decide

theorem witness_EncEth :
    (oneByte 15).err = 0 ∧ (oneByte 15).len + 14 ≤ (oneByte 15).cfg.pbCap ∧
      (oneByte 14).cfg.pbCap < (oneByte 14).len + 14 := by decide

theorem witness_EncTransport :
    (oneByte 8).err = 0 ∧ (oneByte 8).len + 7 ≤ (oneByte 8).cfg.pbCap ∧
      (oneByte 7).cfg.pbCap < (oneByte 7).len + 7 := by decide

theorem witness_PatchSize :
    (barely.err = 0 ∧ barely.thv = true ∧ barely.tho + 2 < barely.len) ∧ (frame tc0 [0]).thv = false := by decide

theorem witness_PatchSizeIsIdempotent : ∃ t, exec (.patchSize 5) barely = .next t := ⟨_, rfl⟩

theorem witness_PatchedSize :
    (headed tc0).Inv ∧ (headed tc0).err = 0 ∧ (headed tc0).thv = true ∧
      (headed tc0).len < (headed tc0).tho + 7 + 65536 := ⟨headed_inv, rfl, rfl, by decide⟩

theorem witness_UpFront :
    ∃ t, (frame tc0 [0]).err = 0 ∧ (∀ i ∈ [Instr.encApp app0, .serIq 1 [⟨1, -1⟩]], plainAppend i = true) ∧
      execAll (.encTransport 0 1 2 12 :: [Instr.encApp app0, .serIq 1 [⟨1, -1⟩]]) (frame tc0 [0]) = .next t ∧
      t.err = 0 := ⟨_, rfl, by decide, rfl, rfl⟩

theorem witness_EncApp :
    (oneByte 9).err = 0 ∧ ¬ ((oneByte 9).cfg.strict = true ∧ outOfRange app0) ∧
      (oneByte 9).len + 8 ≤ (oneByte 9).cfg.pbCap ∧ (oneByte 8).cfg.pbCap < (oneByte 8).len + 8 ∧
      (frame tcStrict []).cfg.strict = true ∧ outOfRange { app0 with sectionId := 4096 } := by decide

theorem witness_AppUnpacks :
    ∃ t, (oneByte 9).err = 0 ∧ exec (.encApp ⟨5, 3, 9, 13, 100, 0, 273⟩) (oneByte 9) = .next t ∧ t.err = 0 :=
  ⟨_, rfl, rfl, rfl⟩

theorem witness_TransportUnpacks :
    ∃ t, (oneByte 8).err = 0 ∧ exec (.encTransport 7 1 2 3) (oneByte 8) = .next t ∧ t.err = 0 := ⟨_, rfl, rfl, rfl⟩

theorem witness_Count273 :
    (oneByte 9).err = 0 ∧ ¬ ((oneByte 9).cfg.strict = true ∧ outOfRange app0) ∧
      (oneByte 9).len + 8 ≤ (oneByte 9).cfg.pbCap := by decide

theorem witness_OutOfRangeOperandsAreTruncated : (oneByte 9).cfg.strict = false := rfl

theorem witness_StrictMode :
    (frame tcStrict []).err = 0 ∧ (frame tcStrict []).cfg.strict = true ∧ outOfRange { app0 with subframeId := 16 } ∧
      ¬ outOfRange ⟨256, 15, 15, 63, 4095, 1024, 273⟩ := by decide

theorem witness_SerIq :
    (oneByte 5).err = 0 ∧ (0 : Int) ≤ 1 ∧ (1 : Int) ≤ [Sample.mk 1 1].length ∧
      (oneByte 5).len + 4 * (1 : Int).toNat ≤ (oneByte 5).cfg.pbCap ∧ (-1 : Int) < 0 ∧
      (([] : List Sample).length : Int) < 1 ∧ (oneByte 4).cfg.pbCap < (oneByte 4).len + 4 * (1 : Int).toNat := by decide

theorem witness_EmittedSamples :
    ∃ t, (oneByte 5).err = 0 ∧ exec (.serIq 1 [⟨32768, -32769⟩]) (oneByte 5) = .next t ∧ t.err = 0 ∧
      ((0 : Nat) : Int) < 1 ∧ [Sample.mk 32768 (-32769)][0]? = some ⟨32768, -32769⟩ := ⟨_, rfl, rfl, rfl, by decide, rfl⟩

theorem witness_SurplusSamples : (1 : Int) ≤ [Sample.mk 1 1].length := by decide

/-- Clauses 1, 2, 3, 4 and 6 of the statement about ASSEMBLE. -/
theorem witness_Assemble :
    (oneByte 33).err = 0 ∧ ¬ ((oneByte 33).cfg.strict = true ∧ outOfRange app0) ∧
      (1 : Int) ≤ [Sample.mk 1 1].length ∧ 8 + 4 * (1 : Int) ≤ 65535 ∧ 29 + 4 * (1 : Int) ≤ (oneByte 33).cfg.pbCap ∧
      ((frame tcStrict []).cfg.strict = true ∧ outOfRange { app0 with slotId := 16 }) ∧ (-1 : Int) < 0 ∧
      (([] : List Sample).length : Int) < 1 ∧ ((oneByte 32).cfg.pbCap : Int) < 29 + 4 * 1 := by decide

/-- Clause 5, SizeOverflow, at 16382 pairs, and the largest packet at 16381. -/
theorem witness_Assemble_size :
    ∃ l : List Sample, (16382 : Int) ≤ l.length ∧ (65535 : Int) < 8 + 4 * 16382 ∧ (16381 : Int) < 16382 ∧
      (8 : Int) + 4 * 16381 ≤ 65535 ∧ 65553 ≤ tc0.pbCap :=
  ⟨List.replicate 16382 ⟨0, 0⟩, by rw [List.length_replicate]; decide, by decide, by decide, by decide, by decide⟩

theorem witness_AssembledPacket :
    ∃ t, (oneByte 33).err = 0 ∧ exec (.assemble macD macS 0 1 65536 app0 1 [⟨1, -1⟩]) (oneByte 33) = .next t ∧
      t.err = 0 := ⟨_, rfl, rfl, rfl⟩

theorem witness_CountField :
    ∃ t u, (oneByte 29).err = 0 ∧ exec (.assemble macD macS 0 1 0 app0 0 []) (oneByte 29) = .next t ∧
      exec (.assemble macD macS 0 1 0 { app0 with numRb := 273 } 0 []) (oneByte 29) = .next u ∧ t.err = 0 :=
  ⟨_, _, rfl, rfl, rfl, rfl⟩

/-- With the default count of resource blocks, and with one in the smallest buffer. -/
theorem witness_Mkpkt :
    (frame tc0 []).err = 0 ∧ ¬ (tc0.strict = true ∧ outOfRange app0) ∧ (none : Option Nat).getD tc0.numRbDefault = 273 ∧
      8 + 4 * (tc0.scPerRb * 273) ≤ 65535 ∧ 29 + 4 * (tc0.scPerRb * 273) ≤ tc0.pbCap ∧
      (some 1).getD tc0.numRbDefault = 1 ∧ 29 + 4 * ((tcCap 77).scPerRb * 1) ≤ (tcCap 77).pbCap := by decide

theorem witness_EndToEndScenario :
    ∃ l : List Sample, (frame (tcCap 13133) []).err = 0 ∧ (tcCap 13133).strict = false ∧
      13133 ≤ (tcCap 13133).pbCap ∧ 3276 ≤ l.length :=
  ⟨List.replicate 3276 ⟨0, 0⟩, rfl, rfl, by decide, by rw [List.length_replicate]⟩

theorem witness_EncGhdr :
    (oneByte 24).err = 0 ∧ (oneByte 24).cfg.hasContainer = true ∧ 24 ≤ (oneByte 24).cfg.pbCap ∧
      (oneByte 23).cfg.pbCap < 24 := by decide

theorem witness_EncRec :
    ∃ v, (oneByte 17).err = 0 ∧ (oneByte 17).cfg.hasContainer = true ∧ 0 < (oneByte 17).len ∧
      (oneByte 17).len + 16 ≤ (oneByte 17).cfg.pbCap ∧ (oneByte 17).outBytes = some [0xAB] ∧ acceptable .negZero v := by
  obtain ⟨v, h⟩ := acceptable_zero
  exact ⟨v, rfl, rfl, by decide, by decide, by decide, h⟩

theorem witness_TimestampSplitIsMonotone : (1 / 2 : ℚ) ≤ 3 / 2 := by norm_num

theorem witness_EachCommandMovesLen_raising :
    ∃ t, (oneByte 14).err = 0 ∧ exec (.encEth macD macS) (oneByte 14) = .next t ∧ t.err ≠ 0 := ⟨_, rfl, rfl, by decide⟩

theorem witness_HeaderMarker :
    ∃ t, (frame tc0 [0]).err = 0 ∧ exec (.patchSize 1) (frame tc0 [0]) = .next t ∧ (frame tc0 [0]).thv = false :=
  ⟨_, rfl, rfl, rfl⟩

theorem witness_NoHeaderIsLeft_begin :
    ∃ t, exec .beginFrame (headed tc0) = .next t ∧ (headed tc0).err = 0 ∧ t.err = 0 := ⟨_, rfl, rfl, rfl⟩

theorem witness_NoHeaderIsLeft_ghdr :
    ∃ t, exec .encGhdr (headed tc0) = .next t ∧ (headed tc0).err = 0 ∧ t.err = 0 := ⟨_, rfl, rfl, rfl⟩

theorem witness_NoHeaderIsLeft_rec :
    ∃ t, exec (.encRec .negZero) (headed tc0) = .next t ∧ (headed tc0).err = 0 ∧ t.err = 0 := ⟨_, rfl, rfl, rfl⟩

theorem witness_OutputPortShowsTheFrame : (headed tc0).Inv := headed_inv

theorem witness_NoStepChangesTheConfiguration :
    ∃ t, step (presenting (headed tc0) .beginFrame) = .next t := ⟨_, rfl⟩

/-- One state had a frame and a header, the other is fresh. -/
theorem witness_FreshFrames :
    ∃ u t, startsFrame .beginFrame = true ∧ (headed tc0).err = 0 ∧ (frame tc0 []).err = 0 ∧
      (headed tc0).errCause = (frame tc0 []).errCause ∧ (headed tc0).errOp = (frame tc0 []).errOp ∧
      (headed tc0).cfg = (frame tc0 []).cfg ∧ exec .beginFrame (headed tc0) = .next u ∧ u.err = 0 ∧
      execAll [.encApp app0, .encRec .negZero] u = .next t := ⟨_, _, rfl, rfl, rfl, rfl, rfl, rfl, rfl, rfl, rfl⟩

theorem witness_InstancesShareNothing :
    ∃ t, stepInstance 1 [headed tc0, presenting (headed tc0) .beginFrame] = .next t := ⟨_, rfl⟩

theorem witness_EverySelector : (Instr.unassignedCF 2).selector = 0b1110 := by decide

theorem witness_SelectorWords_wide : 16 ≤ (16 : Nat) := by decide

end Sys2Proof.Tests
end

/-! The reset state: which states give every command a next state, and that the reset state is one of them. -/

namespace Sys2Proof.Machine

/-- A command answers a next state as soon as its effect does on the states where it takes place. -/
theorem runCommand_completes {op : Selector} {checks : List (Bool × CmdError)} {effect : Answer} {s : State}
    (h : s.err = 0 → firstError checks = none → ∃ t, effect = .next t) : ∃ t, runCommand op checks effect s = .next t := by
  by_cases h0 : s.err = 0
  · cases hc : firstError checks with
    | some e => exact ⟨_, runCommand_raises h0 hc op effect⟩
    | none => simpa only [runCommand_runs h0 hc] using h h0 hc
  · exact ⟨s, runCommand_faulted h0 op checks effect⟩

/-- A command whose effect is a next state completes on every state. -/
theorem runCommand_next_completes (op : Selector) (checks : List (Bool × CmdError)) (u s : State) :
    ∃ t, runCommand op checks (.next u) s = .next t :=
  runCommand_completes fun _ _ => ⟨u, rfl⟩

/-- BEGIN completes on every state (45_control.md R160). -/
theorem execBegin_completes (s : State) : ∃ t, execBegin s = .next t :=
  runCommand_next_completes 0x0 [] s.truncate.dropHeader s

/-- An unassigned selector completes on every state (60_exceptions.md R193). -/
theorem runUnassigned_completes (op : Selector) (s : State) : ∃ t, runUnassigned op s = .next t :=
  runCommand_next_completes op _ s s

/-- Wrapping a payload into a record never stops. -/
theorem State.wrapRecord_completes (ts : Timestamp) (s : State) (payload : List Byte) :
    ∃ t, s.wrapRecord ts payload = .next t := by
  unfold State.wrapRecord
  split
  · exact ⟨_, rfl⟩
  · exact ⟨_, rfl⟩

/-- PATCH_SIZE completes where a marked header lies inside the frame (41_transport.md R93). -/
theorem execPatchSize_completes {s : State} (hdr : s.thv = true → s.tho + 3 ≤ s.len) (z : BitVec 16) :
    ∃ t, execPatchSize z s = .next t := by
  refine runCommand_completes fun _ hc => ?_
  have marked : s.thv = true := by simpa using firstError_eq_none.mp hc
  exact ⟨_, State.memWrite_inside (hdr marked)⟩

/-- ENC_REC completes where every byte of the frame has been written (46_capture_container.md R175). -/
theorem execEncRec_completes {s : State} (written : s.outBytes.isSome) (ts : Timestamp) :
    ∃ t, execEncRec ts s = .next t := by
  obtain ⟨payload, hp⟩ := Option.isSome_iff_exists.mp written
  refine runCommand_completes fun _ _ => ?_
  rw [State.memRead_of_some hp]
  exact s.wrapRecord_completes ts payload

/-- Every command completes where a marked header lies inside the frame and every byte of the frame has been written:
only PATCH_SIZE and ENC_REC ask anything of the state. -/
theorem exec_completes {s : State} (hdr : s.thv = true → s.tho + 3 ≤ s.len) (written : s.outBytes.isSome) (i : Instr) :
    ∃ t, exec i s = .next t := by
  cases i with
  | patchSize z => exact execPatchSize_completes hdr z
  | encRec ts => exact execEncRec_completes written ts
  | beginFrame => exact execBegin_completes s
  | encEth | encTransport | encApp | serIq | assemble | encGhdr => exact runCommand_next_completes ..
  | unassigned7 | unassignedAB | unassignedCF => exact runUnassigned_completes _ s

/-- Every command completes on a reset state: no header is marked and the frame is empty (10_state.md R20). -/
theorem exec_afterReset_completes (c : Cfg) (input : List HostInput) (i : Instr) :
    ∃ t, exec i (State.afterReset c input) = .next t :=
  exec_completes (by simp) (by simp [State.outBytes, Memory.readBytes]) i

/-- PATCH_SIZE without a marked header raises PatchNoHeader and changes nothing else (41_transport.md R93). -/
theorem execPatchSize_noHeader {s : State} (clear : s.err = 0) (unmarked : s.thv = false) (z : BitVec 16) :
    execPatchSize z s = .next (s.withError 5 0 3) :=
  runCommand_raises clear (e := .patchNoHeader) (by simp [firstError, unmarked]) 0x3 _

/-- Settles O4: the registers by definition, the commands because the reset frame is empty and holds no header. -/
theorem resetStateAcceptsEveryFirstCommand : Obligations.ResetStateAcceptsEveryFirstCommand := by
  refine ⟨rfl, ?_⟩
  rintro c input s rfl
  exact ⟨rfl, rfl, rfl, rfl, rfl, rfl, rfl, exec_afterReset_completes c input, execPatchSize_noHeader rfl rfl⟩

end Sys2Proof.Machine

/-! The encoding's two modes: strict mode adds the range check of four ids, and a configuration otherwise reaches a
command only through its checks and its effect. -/

namespace Sys2Proof

/-- The configuration in the default mode, which checks no range (30_encoding.md R60). -/
abbrev Cfg.lenient (c : Cfg) : Cfg := { c with strict := false }

end Sys2Proof

namespace Sys2Proof.Machine

/-- Strict mode refuses exactly the operands with an id that does not fit its field (30_encoding.md R61). -/
theorem strictRefuses_iff {c : Cfg} {a : AppOperands} :
    strictRefuses c a = true ↔ c.strict = true ∧ outOfRange a := by
  simp [strictRefuses, outOfRange, or_assoc]

/-- Two configurations under which a command has the same checks and the same effect give the same answer, each with its
own configuration. -/
theorem runCommand_withCfg (op : Selector) (checks : List (Bool × CmdError)) (u s : State) (c : Cfg) :
    ∃ t, runCommand op checks (.next u) s = .next t ∧
      runCommand op checks (.next { u with cfg := c }) { s with cfg := c } = .next { t with cfg := c } := by
  by_cases clear : s.err = 0
  · cases hc : firstError checks with
    | some e => exact ⟨_, runCommand_raises clear hc op _, runCommand_raises (s := { s with cfg := c }) clear hc op _⟩
    | none => exact ⟨u, runCommand_runs clear hc op _, runCommand_runs (s := { s with cfg := c }) clear hc op _⟩
  · exact ⟨s, runCommand_faulted clear op checks _, runCommand_faulted (s := { s with cfg := c }) clear op checks _⟩

/-- A command whose first check is the strict one raises StrictRange where that check holds (60_exceptions.md R198). -/
theorem runCommand_strictRange {s : State} {app : AppOperands} (clear : s.err = 0)
    (refused : strictRefuses s.cfg app = true) (op : Selector) (checks : List (Bool × CmdError)) (effect : Answer) :
    runCommand op ((strictRefuses s.cfg app, .precondition .strictRange) :: checks) effect s =
      .next (s.withError 2 3 op) :=
  runCommand_raises clear (e := .precondition .strictRange) (by simp [firstError, refused]) op effect

/-- ENC_APP answers in both modes alike where strict mode accepts its operands. -/
theorem execEncApp_lenient {s : State} {app : AppOperands} (accepted : strictRefuses s.cfg app = false) :
    ∃ t, execEncApp app s = .next t ∧
      execEncApp app { s with cfg := s.cfg.lenient } = .next { t with cfg := s.cfg.lenient } := by
  unfold execEncApp
  rw [accepted]
  exact runCommand_withCfg ..

/-- ASSEMBLE answers in both modes alike where strict mode accepts its operands. -/
theorem execAssemble_lenient {s : State} {app : AppOperands} (accepted : strictRefuses s.cfg app = false)
    (dst src : Mac) (mt : Nat) (flow : BitVec 16) (idx : Nat) (count : Int) (samples : List Sample) :
    ∃ t, execAssemble dst src mt flow idx app count samples s = .next t ∧
      execAssemble dst src mt flow idx app count samples { s with cfg := s.cfg.lenient } =
        .next { t with cfg := s.cfg.lenient } := by
  unfold execAssemble
  rw [accepted]
  exact runCommand_withCfg ..

/-- Settles O28: the strict check is the first of both commands, and without it their checks and effects do not read the
mode. -/
theorem strictModeAddsOnlyTheRangeCheck : Obligations.StrictModeAddsOnlyTheRangeCheck := by
  intro s app clear strict
  refine ⟨fun out => ?_, fun fits => ?_⟩
  · have refused : strictRefuses s.cfg app = true := strictRefuses_iff.mpr ⟨strict, out⟩
    exact ⟨runCommand_strictRange clear refused 0x4 _ _,
      fun _ _ _ _ _ _ _ => runCommand_strictRange clear refused 0x6 _ _⟩
  · have accepted : strictRefuses s.cfg app = false :=
      Bool.eq_false_iff.mpr fun refused => fits (strictRefuses_iff.mp refused).2
    exact ⟨execEncApp_lenient accepted, execAssemble_lenient accepted⟩

end Sys2Proof.Machine

/-! The link layer: ENC_ETH, a command whose only check is the room its append needs. -/

namespace Sys2Proof.Machine

/-- A command that checks nothing but room takes effect where there is room (60_exceptions.md R195). -/
theorem runCommand_fits {s : State} {start n : Nat} (clear : s.err = 0) (room : start + n ≤ s.cfg.pbCap)
    (op : Selector) (effect : Answer) : runCommand op [(s.lacksRoom start n, .bufferOverflow)] effect s = effect :=
  runCommand_runs clear (by simp [firstError, State.lacksRoom_eq_false.mpr room]) op effect

/-- A command that checks nothing but room raises BufferOverflow where there is none (60_exceptions.md R195). -/
theorem runCommand_overflows {s : State} {start n : Nat} (clear : s.err = 0) (full : s.cfg.pbCap < start + n)
    (op : Selector) (effect : Answer) :
    runCommand op [(s.lacksRoom start n, .bufferOverflow)] effect s = .next (s.withError 4 0 op) :=
  runCommand_raises clear (e := .bufferOverflow) (by simp [firstError, State.lacksRoom_eq_true.mpr full]) op effect

/-- ENC_ETH with 14 bytes of room appends the bytes of 30_encoding.md R52 (40_link_layer.md R80). -/
theorem execEncEth_fits {s : State} (clear : s.err = 0) (room : s.len + 14 ≤ s.cfg.pbCap) (dst src : Mac) :
    execEncEth dst src s = .next (s.append (linkBytes s.cfg dst src)) := by
  rw [execEncEth, runCommand_fits clear room, linkHeader_eq]

/-- ENC_ETH without 14 bytes of room raises BufferOverflow (40_link_layer.md R80). -/
theorem execEncEth_overflows {s : State} (clear : s.err = 0) (full : s.cfg.pbCap < s.len + 14) (dst src : Mac) :
    execEncEth dst src s = .next (s.withError 4 0 1) :=
  runCommand_overflows clear full 0x1 _

/-- Settles O17: the room check decides between an append of the header, which leaves the marker alone, and
BufferOverflow. -/
theorem encEthAppendsTheLinkHeader : Obligations.EncEthAppendsTheLinkHeader := by
  intro s dst src clear
  refine ⟨fun room => ?_, fun full => execEncEth_overflows clear full dst src⟩
  exact ⟨_, execEncEth_fits clear room dst src, s.append_appended _, s.append_thv _, s.append_tho _⟩

end Sys2Proof.Machine

/-! The transport header: ENC_TRANSPORT marks what it appends, PATCH_SIZE writes two bytes of what is marked. -/

namespace Sys2Proof.Machine

/-- Marking a header after an append does not change what was appended: an append says nothing of the marker. -/
theorem State.Appended.markHeader {s t : State} {bs : List Byte} (h : s.Appended t bs) (o : Nat) :
    s.Appended (t.markHeader o) bs := h

/-- ENC_TRANSPORT with 7 bytes of room appends the bytes of 30_encoding.md R53, R54 and marks the place they start at
(41_transport.md R90). -/
theorem execEncTransport_fits {s : State} (clear : s.err = 0) (room : s.len + 7 ≤ s.cfg.pbCap) (mt : Nat)
    (flow seq size : BitVec 16) :
    execEncTransport mt flow seq size s =
      .next ((s.append (transportBytes s.cfg mt flow.toNat seq.toNat size.toNat)).markHeader s.len) := by
  rw [execEncTransport, runCommand_fits clear room, transportHeader_eq]
  rfl

/-- ENC_TRANSPORT without 7 bytes of room raises BufferOverflow (41_transport.md R90). -/
theorem execEncTransport_overflows {s : State} (clear : s.err = 0) (full : s.cfg.pbCap < s.len + 7) (mt : Nat)
    (flow seq size : BitVec 16) : execEncTransport mt flow seq size s = .next (s.withError 4 0 2) :=
  runCommand_overflows clear full 0x2 _

/-- PATCH_SIZE with the marked bytes inside the frame writes the size over them (41_transport.md R93). -/
theorem execPatchSize_inside {s : State} (clear : s.err = 0) (marked : s.thv = true) (inside : s.tho + 2 < s.len)
    (z : BitVec 16) :
    execPatchSize z s = .next { s with pb := s.pb.write (s.tho + 1) (big16 z.toNat) } := by
  have fits : s.tho + 1 + (big16 z.toNat).length ≤ s.len := by rw [big16_length]; omega
  rw [execPatchSize, runCommand_runs clear (by simp [firstError, marked]), be16_eq, State.memWrite_inside fits]

/-- Settles O18: the room check decides between an append of the header, whose start is then marked, and
BufferOverflow. -/
theorem encTransportAppendsAndMarksTheHeader : Obligations.EncTransportAppendsAndMarksTheHeader := by
  intro s mt flow seq size clear
  refine ⟨fun room => ?_, fun full => execEncTransport_overflows clear full mt flow seq size⟩
  exact ⟨_, execEncTransport_fits clear room mt flow seq size, (s.append_appended _).markHeader s.len,
    State.markHeader_thv .., State.markHeader_tho ..⟩

/-- Settles O19: the marker decides between a write of two bytes, which leaves every other field alone, and
PatchNoHeader. -/
theorem patchSizeOverwritesBytesOneAndTwo : Obligations.PatchSizeOverwritesBytesOneAndTwo := by
  intro s z clear
  refine ⟨fun marked inside => ?_, fun unmarked => execPatchSize_noHeader clear unmarked z⟩
  exact ⟨_, execPatchSize_inside clear marked inside z, s.pb.write_holds _ _, s.pb.write_sameOutside _ _, rfl,
    ⟨rfl, rfl⟩, ⟨rfl, rfl, rfl⟩, ⟨rfl, rfl⟩⟩

end Sys2Proof.Machine

/-! The application header: ENC_APP checks room only after the strict check accepts its operands. -/

namespace Sys2Proof.Machine

/-- Strict mode accepts the operands exactly where it is off or every checked id fits its field (30_encoding.md R61). -/
theorem strictRefuses_eq_false_iff {c : Cfg} {a : AppOperands} :
    strictRefuses c a = false ↔ ¬ (c.strict = true ∧ outOfRange a) := by
  rw [← Bool.not_eq_true, strictRefuses_iff]

/-- A first check that does not hold is passed over (60_exceptions.md R198). -/
theorem runCommand_skip {holds : Bool} (passes : holds = false) (op : Selector) (e : CmdError)
    (checks : List (Bool × CmdError)) (effect : Answer) (s : State) :
    runCommand op ((holds, e) :: checks) effect s = runCommand op checks effect s := by
  subst passes
  rfl

/-- ENC_APP with accepted operands and 8 bytes of room appends the bytes of 30_encoding.md R57 (42_application.md
R105). -/
theorem execEncApp_fits {s : State} {app : AppOperands} (clear : s.err = 0)
    (accepted : strictRefuses s.cfg app = false) (room : s.len + 8 ≤ s.cfg.pbCap) :
    execEncApp app s = .next (s.append (appBytes s.cfg app)) := by
  rw [execEncApp, runCommand_skip accepted, runCommand_fits clear room, appHeader_eq]

/-- ENC_APP with accepted operands but without 8 bytes of room raises BufferOverflow (42_application.md R105). -/
theorem execEncApp_overflows {s : State} {app : AppOperands} (clear : s.err = 0)
    (accepted : strictRefuses s.cfg app = false) (full : s.cfg.pbCap < s.len + 8) :
    execEncApp app s = .next (s.withError 4 0 4) := by
  rw [execEncApp, runCommand_skip accepted, runCommand_overflows clear full]

/-- Settles O23: the strict check comes first; past it, the room check decides between an append of the header, which
leaves the marker alone, and BufferOverflow. -/
theorem encAppAppendsTheApplicationHeader : Obligations.EncAppAppendsTheApplicationHeader := by
  intro s app clear
  refine ⟨fun fits room => ?_, fun strict out => ?_, fun fits full => ?_⟩
  · exact ⟨_, execEncApp_fits clear (strictRefuses_eq_false_iff.mpr fits) room, s.append_appended _, s.append_thv _,
      s.append_tho _⟩
  · exact runCommand_strictRange clear (strictRefuses_iff.mpr ⟨strict, out⟩) 0x4 _ _
  · exact execEncApp_overflows clear (strictRefuses_eq_false_iff.mpr fits) full

end Sys2Proof.Machine

/-! The IQ sample serializer: SER_IQ checks its count, then the pairs it is given, and room only for a count it
accepts. -/

namespace Sys2Proof.Machine

theorem negCount_eq_true {count : Int} : negCount count = true ↔ count < 0 := decide_eq_true_iff

theorem tooFewSamples_eq_true {count : Int} {samples : List Sample} :
    tooFewSamples count samples = true ↔ (samples.length : Int) < count := decide_eq_true_iff

/-- A first check that holds raises its error, whatever the later checks say (60_exceptions.md R198). -/
theorem runCommand_raisesFirst {s : State} {holds : Bool} (clear : s.err = 0) (fails : holds = true) (op : Selector)
    (e : CmdError) (checks : List (Bool × CmdError)) (effect : Answer) :
    runCommand op ((holds, e) :: checks) effect s = .next (s.withError e.kindCode e.causeCode op) :=
  runCommand_raises clear (by simp [firstError, fails]) op effect

/-- SER_IQ with a negative count raises NegCount (43_iq_serializer.md R120). -/
theorem execSerIq_negCount {s : State} {count : Int} (clear : s.err = 0) (negative : count < 0)
    (samples : List Sample) : execSerIq count samples s = .next (s.withError 2 1 5) :=
  runCommand_raisesFirst clear (negCount_eq_true.mpr negative) 0x5 (.precondition .negCount) _ _

/-- SER_IQ with fewer pairs than a count that is not negative raises CountMismatch (43_iq_serializer.md R120). -/
theorem execSerIq_countMismatch {s : State} {count : Int} {samples : List Sample} (clear : s.err = 0)
    (nonneg : 0 ≤ count) (few : (samples.length : Int) < count) :
    execSerIq count samples s = .next (s.withError 2 2 5) := by
  rw [execSerIq, runCommand_skip (negCount_eq_false.mpr nonneg),
    runCommand_raisesFirst clear (tooFewSamples_eq_true.mpr few)]
  rfl

/-- SER_IQ with a count its pairs cover has only its room left to check, and would append the bytes of 30_encoding.md
R58. -/
theorem execSerIq_accepted {count : Int} {samples : List Sample} (nonneg : 0 ≤ count)
    (enough : count ≤ samples.length) (s : State) :
    execSerIq count samples s =
      runCommand 0x5 [(s.lacksRoom s.len (iqLength count), .bufferOverflow)]
        (.next (s.append (blockBytes (usedSamples count samples)))) s := by
  rw [execSerIq, runCommand_skip (negCount_eq_false.mpr nonneg),
    runCommand_skip (tooFewSamples_eq_false.mpr enough), iqBlock_eq]

/-- The block of the pairs used takes four bytes a pair (30_encoding.md R58). -/
theorem blockBytes_usedSamples_length {count : Int} {samples : List Sample} (enough : count ≤ samples.length) :
    (blockBytes (usedSamples count samples)).length = 4 * count.toNat := by
  rw [blockBytes_length, usedSamples_length enough]

/-- Settles O29: the two checks of the count come first; past them, the room check decides between an append of the
block, which leaves the marker alone, and BufferOverflow. -/
theorem serIqAppendsTheSampleBlock : Obligations.SerIqAppendsTheSampleBlock := by
  intro s count samples clear
  refine ⟨fun nonneg enough room => ?_, fun negative => execSerIq_negCount clear negative samples,
    fun nonneg few => execSerIq_countMismatch clear nonneg few, fun nonneg enough full => ?_⟩
  · exact ⟨_, (execSerIq_accepted nonneg enough s).trans (runCommand_fits clear room 0x5 _), s.append_appended _,
      congrArg (s.len + ·) (blockBytes_usedSamples_length enough), s.append_thv _, s.append_tho _⟩
  · exact (execSerIq_accepted nonneg enough s).trans (runCommand_overflows clear full 0x5 _)

end Sys2Proof.Machine

/-! The packet-frame composer: ASSEMBLE writes one packet over the whole frame once its five checks pass. -/

namespace Sys2Proof.Machine

/-- Format PKT in plain arithmetic: the three headers and the block of the pairs, the payload size counting the eight
bytes of the application header and four a pair (30_encoding.md R59, 44_composer.md R140). -/
def packetBytes (c : Cfg) (dst src : Mac) (mt : Nat) (flow : BitVec 16) (idx : Nat) (app : AppOperands)
    (pairs : List Sample) : List Byte :=
  linkBytes c dst src ++ transportBytes c mt flow.toNat (idx % 65536) (8 + 4 * pairs.length) ++ appBytes c app ++
    blockBytes pairs

/-- The state ASSEMBLE leaves where it does not raise: the packet as the whole frame, its transport header marked at 14
(44_composer.md R140). -/
def State.composed (s : State) (dst src : Mac) (mt : Nat) (flow : BitVec 16) (idx : Nat) (app : AppOperands)
    (pairs : List Sample) : State :=
  (s.truncate.append (packetBytes s.cfg dst src mt flow idx app pairs)).markHeader 14

/-- The checks of ASSEMBLE in the order of 44_composer.md R140. -/
def assembleChecks (s : State) (app : AppOperands) (count : Int) (samples : List Sample) : List (Bool × CmdError) :=
  [(strictRefuses s.cfg app, .precondition .strictRange), (negCount count, .precondition .negCount),
    (tooFewSamples count samples, .precondition .countMismatch), (sizeOverflows count, .precondition .sizeOverflow),
    (s.lacksRoom 0 (29 + iqLength count), .bufferOverflow)]

/-- The operands ASSEMBLE completes with: none of the five errors of 44_composer.md R140 applies. -/
structure State.Composes (s : State) (app : AppOperands) (count : Int) (samples : List Sample) : Prop where
  accepted : ¬ (s.cfg.strict = true ∧ outOfRange app)
  nonneg : 0 ≤ count
  enough : count ≤ samples.length
  size : 8 + 4 * count ≤ 65535
  room : 29 + 4 * count ≤ (s.cfg.pbCap : Int)

/-- Two bytes read the low 16 bits only. -/
theorem big16_mod (n : Nat) : big16 (n % 65536) = big16 n := by
  have high : octet (n % 65536 / 2 ^ 8) = octet (n / 2 ^ 8) := by
    apply BitVec.eq_of_toNat_eq
    simp only [octet, BitVec.toNat_ofNat]
    omega
  have low : octet (n % 65536) = octet n := by
    apply BitVec.eq_of_toNat_eq
    simp only [octet, BitVec.toNat_ofNat]
    omega
  rw [big16, big16, high, low]

/-- A value that fits two bytes is read back from them, the most significant first. -/
theorem octet_high_low {n : Nat} (h : n < 65536) : (octet (n / 2 ^ 8)).toNat * 256 + (octet n).toNat = n := by
  simp only [octet, BitVec.toNat_ofNat]
  omega

/-- The count field is byte 7 of the application header, and no other byte of it depends on `num_rb`
(30_encoding.md R56). -/
theorem appBytes_setNumRb (c : Cfg) (app : AppOperands) (n : Nat) :
    appBytes c { app with numRb := n } = (appBytes c app).set 7 (octet n) := by
  have above : sectionValue c { app with numRb := n } / 2 ^ 8 = sectionValue c app / 2 ^ 8 := by
    simp only [sectionValue]
    omega
  have b4 : sectionValue c { app with numRb := n } / 2 ^ 24 = sectionValue c app / 2 ^ 24 := by omega
  have b5 : sectionValue c { app with numRb := n } / 2 ^ 16 = sectionValue c app / 2 ^ 16 := by omega
  have b7 : octet (sectionValue c { app with numRb := n }) = octet n := by
    apply BitVec.eq_of_toNat_eq
    simp only [octet, sectionValue, BitVec.toNat_ofNat]
    omega
  simp only [appBytes, big32, b4, b5, above, b7]
  rfl

theorem CmdError.kindCode_ne_zero (e : CmdError) : e.kindCode ≠ 0 := by
  cases e <;> simp [CmdError.kindCode]

section Packet

variable (c : Cfg) (s : State) (dst src : Mac) (mt : Nat) (flow : BitVec 16) (idx : Nat) (app : AppOperands)
  (pairs : List Sample)

/-- The packet of bit fields is the packet in plain arithmetic. -/
theorem packet_eq : packet c dst src mt flow idx app pairs = packetBytes c dst src mt flow idx app pairs := by
  have size : big16 (composedSize (appHeader c app) (iqBlock pairs)).toNat = big16 (8 + 4 * pairs.length) := by
    rw [composedSize, BitVec.toNat_ofNat, appHeader_length, iqBlock_length]
    exact big16_mod _
  rw [packet, packetBytes, linkHeader_eq, transportHeader_eq, transportBytes, size, toNat_mask, appHeader_eq,
    iqBlock_eq]
  rfl

@[simp] theorem packetBytes_length :
    (packetBytes c dst src mt flow idx app pairs).length = 29 + 4 * pairs.length := by
  rw [← packet_eq, packet_length]

/-- The count field is byte 28 of the packet, and no other byte of it depends on `num_rb` (44_composer.md R146). -/
theorem packetBytes_setNumRb (n : Nat) :
    packetBytes c dst src mt flow idx { app with numRb := n } pairs =
      (packetBytes c dst src mt flow idx app pairs).set 28 (octet n) := by
  rw [packetBytes, appBytes_setNumRb]
  rfl

theorem State.composed_reframed :
    s.Reframed (s.composed dst src mt flow idx app pairs) (packetBytes s.cfg dst src mt flow idx app pairs) :=
  s.truncate_append_reframed _

@[simp] theorem State.composed_thv : (s.composed dst src mt flow idx app pairs).thv = true := rfl
@[simp] theorem State.composed_tho : (s.composed dst src mt flow idx app pairs).tho = 14 := rfl
@[simp] theorem State.composed_err : (s.composed dst src mt flow idx app pairs).err = s.err := rfl
@[simp] theorem State.composed_errCause : (s.composed dst src mt flow idx app pairs).errCause = s.errCause := rfl
@[simp] theorem State.composed_errOp : (s.composed dst src mt flow idx app pairs).errOp = s.errOp := rfl
@[simp] theorem State.composed_cfg : (s.composed dst src mt flow idx app pairs).cfg = s.cfg := rfl
@[simp] theorem State.composed_input : (s.composed dst src mt flow idx app pairs).input = s.input := rfl

@[simp] theorem State.composed_len : (s.composed dst src mt flow idx app pairs).len = 29 + 4 * pairs.length := by
  simp [State.composed]

/-- Inside the packet's length the composed state reads the packet's bytes, outside it what stood there before. -/
theorem State.composed_read (x : Nat) :
    (s.composed dst src mt flow idx app pairs).pb.read x =
      if x < 29 + 4 * pairs.length then (packetBytes s.cfg dst src mt flow idx app pairs)[x]? else s.pb.read x := by
  simp [State.composed, Memory.read_write]

/-- The composed state reads the bytes of the headers, which every packet has. -/
theorem State.composed_read_header {x : Nat} (header : x < 29) :
    (s.composed dst src mt flow idx app pairs).pb.read x =
      (packetBytes s.cfg dst src mt flow idx app pairs)[x]? := by
  rw [State.composed_read, if_pos (by omega)]

/-- Bytes 15 and 16 of a packet are its payload size, where that fits 16 bits (44_composer.md R142). -/
theorem State.composed_payloadSize (fits : 8 + 4 * pairs.length < 65536) :
    ∃ hi lo : Byte, (s.composed dst src mt flow idx app pairs).pb.read 15 = some hi ∧
      (s.composed dst src mt flow idx app pairs).pb.read 16 = some lo ∧
      hi.toNat * 256 + lo.toNat = 8 + 4 * pairs.length :=
  ⟨_, _, s.composed_read_header dst src mt flow idx app pairs (by decide),
    s.composed_read_header dst src mt flow idx app pairs (by decide), octet_high_low fits⟩

/-- Bytes 19 and 20 of a packet are the sequence index modulo 65536 (44_composer.md R144). -/
theorem State.composed_sequenceId :
    ∃ hi lo : Byte, (s.composed dst src mt flow idx app pairs).pb.read 19 = some hi ∧
      (s.composed dst src mt flow idx app pairs).pb.read 20 = some lo ∧
      hi.toNat * 256 + lo.toNat = idx % 65536 :=
  ⟨_, _, s.composed_read_header dst src mt flow idx app pairs (by decide),
    s.composed_read_header dst src mt flow idx app pairs (by decide), octet_high_low (Nat.mod_lt _ (by decide))⟩

/-- Byte 22 of a packet is the frame id modulo 256 (44_composer.md R144). -/
theorem State.composed_frameId :
    ∃ f : Byte, (s.composed dst src mt flow idx app pairs).pb.read 22 = some f ∧ f.toNat = app.frameId % 256 :=
  ⟨_, s.composed_read_header dst src mt flow idx app pairs (by decide),
    (BitVec.toNat_ofNat _ _).trans (Nat.mod_mod _ _)⟩

/-- Packets that differ in `num_rb` alone leave states that read alike but for byte 28 (44_composer.md R146). -/
theorem State.composed_setNumRb_read (n x : Nat) :
    (s.composed dst src mt flow idx { app with numRb := n } pairs).pb.read x =
      if x = 28 then some (octet n) else (s.composed dst src mt flow idx app pairs).pb.read x := by
  rw [State.composed_read, State.composed_read, packetBytes_setNumRb]
  by_cases field : x = 28
  · subst field
    rw [if_pos rfl, if_pos (by omega), List.getElem?_set_self (by rw [packetBytes_length]; omega)]
  · rw [if_neg field, List.getElem?_set_ne (Ne.symm field)]

/-- Sequence indices that agree modulo 65536 compose the same packet (44_composer.md R144). -/
theorem State.composed_addSequence (k : Nat) :
    s.composed dst src mt flow (idx + 65536 * k) app pairs = s.composed dst src mt flow idx app pairs := by
  rw [State.composed, packetBytes, Nat.add_mul_mod_self_left]
  rfl

end Packet

section Assemble

variable {s t : State} {dst src : Mac} {mt : Nat} {flow : BitVec 16} {idx : Nat} {app : AppOperands} {count : Int}
  {samples : List Sample}

theorem execAssemble_eq :
    execAssemble dst src mt flow idx app count samples s =
      runCommand 0x6 (assembleChecks s app count samples)
        (.next (s.composed dst src mt flow idx app (usedSamples count samples))) s := by
  rw [execAssemble, packet_eq]
  rfl

/-- The error ASSEMBLE reports, the first that applies (44_composer.md R140). -/
theorem firstError_assembleChecks :
    firstError (assembleChecks s app count samples) =
      if s.cfg.strict = true ∧ outOfRange app then some (.precondition .strictRange)
      else if count < 0 then some (.precondition .negCount)
      else if (samples.length : Int) < count then some (.precondition .countMismatch)
      else if 65535 < 8 + 4 * count then some (.precondition .sizeOverflow)
      else if (s.cfg.pbCap : Int) < 29 + 4 * count then some .bufferOverflow
      else none := by
  have room : s.lacksRoom 0 (29 + iqLength count) = true ↔ (s.cfg.pbCap : Int) < 29 + 4 * max count 0 := by
    rw [State.lacksRoom_eq_true, iqLength]
    omega
  simp only [assembleChecks, firstError, strictRefuses_iff, negCount_eq_true, tooFewSamples_eq_true, sizeOverflows,
    decide_eq_true_eq, room]
  by_cases negative : count < 0
  · simp only [if_pos negative]
  · rw [max_eq_left (not_lt.mp negative)]

/-- No check refuses exactly the operands ASSEMBLE completes with. -/
theorem assembleChecks_pass_iff :
    firstError (assembleChecks s app count samples) = none ↔ s.Composes app count samples := by
  rw [firstError_assembleChecks]
  constructor
  · intro pass
    split_ifs at pass with strict negative few large full
    exact ⟨strict, not_lt.mp negative, not_lt.mp few, not_lt.mp large, not_lt.mp full⟩
  · rintro ⟨accepted, nonneg, enough, size, room⟩
    rw [if_neg accepted, if_neg nonneg.not_gt, if_neg enough.not_gt, if_neg size.not_gt, if_neg room.not_gt]

/-- ASSEMBLE completes with the operands none of its checks refuses (44_composer.md R140). -/
theorem execAssemble_composes (h : s.Composes app count samples) (clear : s.err = 0) :
    execAssemble dst src mt flow idx app count samples s =
      .next (s.composed dst src mt flow idx app (usedSamples count samples)) := by
  rw [execAssemble_eq, runCommand_runs clear (assembleChecks_pass_iff.mpr h)]

/-- ASSEMBLE raises the first error that applies and keeps the state before (44_composer.md R140). -/
theorem execAssemble_raises {e : CmdError} (clear : s.err = 0)
    (first : firstError (assembleChecks s app count samples) = some e) :
    execAssemble dst src mt flow idx app count samples s = .next (s.withError e.kindCode e.causeCode 6) := by
  rw [execAssemble_eq, runCommand_raises clear first]
  rfl

/-- ASSEMBLE with too many pairs for a 16-bit size raises SizeOverflow (44_composer.md R143). -/
theorem execAssemble_sizeOverflow (clear : s.err = 0) (accepted : ¬ (s.cfg.strict = true ∧ outOfRange app))
    (nonneg : 0 ≤ count) (enough : count ≤ samples.length) (large : 65535 < 8 + 4 * count) :
    execAssemble dst src mt flow idx app count samples s = .next (s.withError 2 4 6) :=
  execAssemble_raises clear (e := .precondition .sizeOverflow) (by
    rw [firstError_assembleChecks, if_neg accepted, if_neg nonneg.not_gt, if_neg enough.not_gt, if_pos large])

/-- An ASSEMBLE that does not raise had none of its errors and left the composed state. -/
theorem execAssemble_completed (clear : s.err = 0)
    (h : execAssemble dst src mt flow idx app count samples s = .next t) (done : t.err = 0) :
    s.Composes app count samples ∧ t = s.composed dst src mt flow idx app (usedSamples count samples) := by
  rw [execAssemble_eq] at h
  obtain ⟨faulted, -⟩ | ⟨-, e, -, rfl⟩ | ⟨-, pass, effect⟩ := runCommand_cases h
  · exact absurd clear faulted
  · exact absurd done e.kindCode_ne_zero
  · injection effect with effect
    exact ⟨assembleChecks_pass_iff.mp pass, effect.symm⟩

/-- ASSEMBLE completes with exactly `count` pairs used, whose payload size fits its field. -/
theorem State.Composes.usedSamples_size (h : s.Composes app count samples) :
    ((usedSamples count samples).length : Int) = count ∧ 8 + 4 * (usedSamples count samples).length < 65536 := by
  obtain ⟨-, nonneg, enough, size, -⟩ := h
  rw [usedSamples_length enough]
  omega

end Assemble

/-- Settles O32: the checks in their order decide between the five errors and the composed state. -/
theorem assembleBuildsTheWholePacket : Obligations.AssembleBuildsTheWholePacket := by
  intro s dst src mt flow idx app count samples clear
  refine ⟨fun accepted nonneg enough size room => ?_, fun strict => ?_, fun accepted negative => ?_,
    fun accepted nonneg few => ?_, fun accepted nonneg enough large => ?_,
    fun accepted nonneg enough size full => ?_⟩
  · have composes : s.Composes app count samples := ⟨accepted, nonneg, enough, size, room⟩
    have reframed := s.composed_reframed dst src mt flow idx app (usedSamples count samples)
    have len := s.composed_len dst src mt flow idx app (usedSamples count samples)
    rw [packetBytes, usedSamples_length enough] at reframed
    rw [usedSamples_length enough] at len
    exact ⟨_, execAssemble_composes composes clear, reframed, len, rfl, rfl⟩
  · exact execAssemble_raises clear (e := .precondition .strictRange) (by
      rw [firstError_assembleChecks, if_pos strict])
  · exact execAssemble_raises clear (e := .precondition .negCount) (by
      rw [firstError_assembleChecks, if_neg accepted, if_pos negative])
  · exact execAssemble_raises clear (e := .precondition .countMismatch) (by
      rw [firstError_assembleChecks, if_neg accepted, if_neg nonneg.not_gt, if_pos few])
  · exact execAssemble_sizeOverflow clear accepted nonneg enough large
  · exact execAssemble_raises clear (e := .bufferOverflow) (by
      rw [firstError_assembleChecks, if_neg accepted, if_neg nonneg.not_gt, if_neg enough.not_gt, if_neg size.not_gt,
        if_pos full])

/-- Settles O33: an ASSEMBLE that does not raise left the composed state, whose size fits its field. -/
theorem assembledPayloadSizeIsExact : Obligations.AssembledPayloadSizeIsExact := by
  intro s t dst src mt flow idx app count samples clear h done
  obtain ⟨composes, rfl⟩ := execAssemble_completed clear h done
  obtain ⟨used, fits⟩ := composes.usedSamples_size
  obtain ⟨hi, lo, read15, read16, size⟩ := s.composed_payloadSize dst src mt flow idx app _ fits
  rw [State.composed_len]
  exact ⟨hi, lo, read15, read16, by omega, by omega, by omega⟩

/-- Settles O34: 16381 is the last count whose payload size, 65532, fits 16 bits, and its packet fits the buffer. -/
theorem oversizedPacketsAreRefused : Obligations.OversizedPacketsAreRefused := by
  intro s dst src mt flow idx app count samples clear accepted enough
  refine ⟨fun large => execAssemble_sizeOverflow clear accepted (by omega) enough (by omega),
    fun nonneg small cap => ?_⟩
  have composes : s.Composes app count samples := ⟨accepted, nonneg, enough, by omega, by omega⟩
  obtain ⟨used, fits⟩ := composes.usedSamples_size
  obtain ⟨hi, lo, read15, read16, size⟩ := s.composed_payloadSize dst src mt flow idx app _ fits
  refine ⟨_, execAssemble_composes composes clear, clear, ?_, ?_, hi, lo, read15, read16, by omega⟩
  · rw [State.composed_len]
    omega
  · rw [State.composed_len]
    omega

/-- Settles O35: the packet reads its sequence index modulo 65536 only, and the checks do not read it. -/
theorem sequenceIndexIsReducedModulo65536 : Obligations.SequenceIndexIsReducedModulo65536 := by
  intro s dst src mt flow idx app count samples
  refine ⟨fun k => ?_, fun t clear h done => ?_⟩
  · change execAssemble dst src mt flow (idx + 65536 * k) app count samples s =
      execAssemble dst src mt flow idx app count samples s
    rw [execAssemble_eq, execAssemble_eq, State.composed_addSequence]
  · obtain ⟨-, rfl⟩ := execAssemble_completed clear h done
    obtain ⟨hi, lo, read19, read20, sequence⟩ := s.composed_sequenceId dst src mt flow idx app _
    obtain ⟨f, read22, frame⟩ := s.composed_frameId dst src mt flow idx app _
    exact ⟨hi, lo, f, read19, read20, read22, sequence, frame⟩

/-- Settles O37: the checks do not read `num_rb`, so both packets are refused alike or both are composed, and then
differ in byte 28 at most. -/
theorem countFieldAndSampleCountAreIndependent : Obligations.CountFieldAndSampleCountAreIndependent := by
  intro s t u dst src mt flow idx app n count samples clear ht hu
  have sameFirst : firstError (assembleChecks s { app with numRb := n } count samples) =
      firstError (assembleChecks s app count samples) := rfl
  cases first : firstError (assembleChecks s app count samples) with
  | some e =>
    obtain rfl : _ = t := Host.Outcome.next.inj ((execAssemble_raises clear first).symm.trans ht)
    obtain rfl : _ = u := Host.Outcome.next.inj ((execAssemble_raises clear (sameFirst.trans first)).symm.trans hu)
    exact ⟨rfl, ⟨rfl, rfl⟩, ⟨rfl, rfl, rfl⟩, ⟨rfl, rfl⟩, fun _ _ => rfl,
      fun done => absurd done e.kindCode_ne_zero⟩
  | none =>
    have composes := assembleChecks_pass_iff.mp first
    have composes' : s.Composes { app with numRb := n } count samples :=
      assembleChecks_pass_iff.mp (sameFirst.trans first)
    obtain rfl : _ = t := Host.Outcome.next.inj ((execAssemble_composes composes clear).symm.trans ht)
    obtain rfl : _ = u := Host.Outcome.next.inj ((execAssemble_composes composes' clear).symm.trans hu)
    refine ⟨by simp, by simp [State.SameMarker], by simp [State.SameErrors], by simp [State.SameSetting],
      fun x other => ?_, fun _ => ?_⟩
    · rw [State.composed_setNumRb_read, if_neg other]
    · rw [State.composed_setNumRb_read, if_pos rfl]

/-- Settles O38: MKPKT is ASSEMBLE with the configured operands, whose count is exactly what the source delivers. -/
theorem mkpktBuildsTheConfiguredPacket : Obligations.MkpktBuildsTheConfiguredPacket := by
  rintro s idx flow app numRb pattern seed n clear accepted rfl size room
  set pairs := s.cfg.scPerRb * numRb.getD s.cfg.numRbDefault
  obtain ⟨build, -⟩ := assembleBuildsTheWholePacket s s.cfg.dstMac s.cfg.srcMac s.cfg.msgType.toNat flow idx
    { app with numRb := numRb.getD s.cfg.numRbDefault } pairs (Config.iqSource pattern seed pairs).toList clear
  have built := build accepted (by omega) (by rw [Vector.length_toList]) (by omega) (by omega)
  rwa [Int.toNat_natCast, List.take_of_length_le (Vector.length_toList).le] at built

end Sys2Proof.Machine

/-! The control commands: BEGIN, a command with no check of its own. -/

namespace Sys2Proof.Machine

/-- BEGIN with no error standing empties the frame and drops its header; the old bytes stay in PB (45_control.md R160). -/
theorem execBegin_runs {s : State} (clear : s.err = 0) : execBegin s = .next { s with len := 0, thv := false } :=
  runCommand_runs clear rfl 0x0 _

/-- Settles O15: BEGIN has no check, so the standing error alone decides between its effect and the refusal. -/
theorem beginStartsAnEmptyFrame : Obligations.BeginStartsAnEmptyFrame := by
  intro s
  exact ⟨fun clear => execBegin_runs clear, fun faulted => runCommand_faulted faulted 0x0 [] _⟩

end Sys2Proof.Machine

/-! The errors: every command has one shape, its checks and then its effect, and every error is raised by that shape. -/

namespace Sys2Proof.Machine

/-- An effect that is a next state leaves what that state has in common with the one before. -/
theorem keeps_of_next {s u : State} (errors : s.SameErrors u) (setting : s.SameSetting u) :
    ∀ t, (.next u : Answer) = .next t → s.SameErrors t ∧ s.SameSetting t := by
  rintro _ ⟨⟩
  exact ⟨errors, setting⟩

/-- A record written over the frame leaves the error registers, the configuration and the host's inputs. -/
theorem State.wrapRecord_keeps {ts : Timestamp} {s t : State} {payload : List Byte}
    (h : s.wrapRecord ts payload = .next t) : s.SameErrors t ∧ s.SameSetting t := by
  unfold State.wrapRecord at h
  split at h
  · cases h
    exact ⟨⟨rfl, rfl, rfl⟩, rfl, rfl⟩
  · cases h
    exact ⟨⟨rfl, rfl, rfl⟩, rfl, rfl⟩

/-- Every command is checks and an effect under its own selector: no check stands for FormatError (60_exceptions.md
R191), and the effect leaves the error registers, the configuration and the host's inputs. -/
theorem exec_eq_runCommand (i : Instr) (s : State) :
    ∃ checks effect, exec i s = runCommand i.selector checks effect s ∧ (∀ c ∈ checks, c.2 ≠ .formatError) ∧
      ∀ t, effect = .next t → s.SameErrors t ∧ s.SameSetting t := by
  cases i with
  | beginFrame =>
    exact ⟨[], .next s.truncate.dropHeader, rfl, by simp, keeps_of_next ⟨rfl, rfl, rfl⟩ ⟨rfl, rfl⟩⟩
  | encEth | encTransport | encApp | serIq | assemble | encGhdr =>
    exact ⟨_, _, rfl, by simp, keeps_of_next ⟨rfl, rfl, rfl⟩ ⟨rfl, rfl⟩⟩
  | unassigned7 | unassignedAB | unassignedCF =>
    exact ⟨[(true, .illegalOp)], .next s, rfl, by simp, keeps_of_next ⟨rfl, rfl, rfl⟩ ⟨rfl, rfl⟩⟩
  | patchSize z =>
    refine ⟨_, _, rfl, by simp, fun t h => ?_⟩
    obtain ⟨-, rfl⟩ := State.memWrite_cases h
    exact ⟨⟨rfl, rfl, rfl⟩, rfl, rfl⟩
  | encRec ts =>
    refine ⟨_, _, rfl, by simp, fun t h => ?_⟩
    obtain ⟨payload, -, wrapped⟩ := State.memRead_cases h
    exact State.wrapRecord_keeps wrapped

/-- While an error stands a command changes nothing (60_exceptions.md R200). -/
theorem exec_faulted {s : State} (faulted : s.err ≠ 0) (i : Instr) : exec i s = .next s := by
  obtain ⟨checks, effect, command, -, -⟩ := exec_eq_runCommand i s
  rw [command, runCommand_faulted faulted]

/-- While an error stands a step takes what the host presents off the port and changes nothing else, unless that is the
reset input (60_exceptions.md R200, 70_reset_and_hazards.md R220). -/
theorem step_faulted {s t : State} (faulted : s.err ≠ 0) (h : step s = .next t) :
    t = { s with input := t.input } ∨ ∃ rest, s.input = .reset :: rest := by
  unfold step at h
  split at h
  · cases h
    exact .inl rfl
  · exact .inr ⟨_, by assumption⟩
  next rest _ =>
    cases h.symm.trans (exec_faulted (s := { s with input := rest }) faulted _)
    exact .inl rfl

/-- Settles O10: an error stops every command before its checks, so a step can only take a command off the port or
reset. -/
theorem errorStateRefusesEveryCommand : Obligations.ErrorStateRefusesEveryCommand :=
  ⟨fun i _ faulted => exec_faulted faulted i, fun _ _ faulted h => step_faulted faulted h⟩

/-- The codes of an error a command can raise are legal (60_exceptions.md R191, R192). -/
theorem CmdError.legal_of_ne_formatError {e : CmdError} (raisable : e ≠ .formatError) :
    legalError e.kindCode e.causeCode = true := by
  cases e with
  | formatError => exact absurd rfl raisable
  | precondition cause => cases cause <;> decide
  | illegalOp | bufferOverflow | patchNoHeader => decide

/-- Settles O11: an effect leaves ERR at 0, so a command that ends with an error raised it by one of its checks. -/
theorem raisingWritesOnlyTheErrorRegisters : Obligations.RaisingWritesOnlyTheErrorRegisters := by
  intro i s t clear h raised
  obtain ⟨checks, effect, command, raisable, keeps⟩ := exec_eq_runCommand i s
  rw [command] at h
  obtain ⟨faulted, -⟩ | ⟨-, e, first, rfl⟩ | ⟨-, -, ran⟩ := runCommand_cases h
  · exact absurd clear faulted
  · exact ⟨CmdError.legal_of_ne_formatError (raisable _ (firstError_mem first)), rfl⟩
  · obtain ⟨⟨sameErr, -, -⟩, -⟩ := keeps t ran
    exact absurd (sameErr.trans clear) raised

/-- An unassigned selector raises IllegalOp, cause 0 (60_exceptions.md R193). -/
theorem runUnassigned_raises {s : State} (clear : s.err = 0) (op : Selector) :
    runUnassigned op s = .next (s.withError 3 0 op) :=
  runCommand_raisesFirst clear rfl op .illegalOp [] _

/-- ENC_GHDR without the container unit raises IllegalOp (60_exceptions.md R193). -/
theorem execEncGhdr_absent {s : State} (clear : s.err = 0) (absent : s.cfg.hasContainer = false) :
    execEncGhdr s = .next (s.withError 3 0 8) :=
  runCommand_raisesFirst clear (by simp [absent]) 0x8 .illegalOp _ _

/-- ENC_REC without the container unit raises IllegalOp (60_exceptions.md R193). -/
theorem execEncRec_absent {s : State} (clear : s.err = 0) (absent : s.cfg.hasContainer = false) (ts : Timestamp) :
    execEncRec ts s = .next (s.withError 3 0 9) :=
  runCommand_raisesFirst clear (by simp [absent]) 0x9 .illegalOp _ _

/-- The free bit of the pattern 101x counts from selector 0xA (30_encoding.md R71). -/
theorem selectorAB_eq (b : BitVec 1) : 0b101#3 ++ b = BitVec.ofNat 4 (10 + b.toNat) := by
  revert b
  decide

/-- The free bits of the pattern 11xx count from selector 0xC (30_encoding.md R71). -/
theorem selectorCF_eq (b : BitVec 2) : 0b11#2 ++ b = BitVec.ofNat 4 (12 + b.toNat) := by
  revert b
  decide

/-- Settles O16: the check of an unassigned selector always holds, and the container's commands check for the unit
first. -/
theorem unassignedSelectorsRaiseIllegalOp : Obligations.UnassignedSelectorsRaiseIllegalOp := by
  intro s clear
  refine ⟨runUnassigned_raises clear 0x7, fun b => ?_, fun b => ?_, fun absent => ?_⟩
  · rw [← selectorAB_eq]
    exact runUnassigned_raises clear _
  · rw [← selectorCF_eq]
    exact runUnassigned_raises clear _
  · exact ⟨execEncGhdr_absent clear absent, execEncRec_absent clear absent⟩

/-- ENC_GHDR with the container unit has only its room left to check (46_capture_container.md R172). -/
theorem execEncGhdr_present {s : State} (present : s.cfg.hasContainer = true) :
    execEncGhdr s =
      runCommand 0x8 [(s.lacksRoom 0 24, .bufferOverflow)]
        (.next (s.truncate.dropHeader.append (globalHeader s.cfg))) s :=
  runCommand_skip (by simp [present]) ..

/-- The value of a timestamp in the words of 46_capture_container.md R177: the finite number itself, 0 for negative
zero. -/
theorem tsValue_eq_some_iff {ts : Timestamp} {v : ℚ} :
    tsValue ts = some v ↔ ts = .finite v ∨ (ts = .negZero ∧ v = 0) := by
  cases ts <;> simp [tsValue, eq_comm]

/-- A timestamp passes the check exactly where it has an acceptable value (46_capture_container.md R175). -/
theorem badTimestamp_eq_false_iff {ts : Timestamp} : badTimestamp ts = false ↔ ∃ v, acceptable ts v := by
  simp only [acceptable, ← tsValue_eq_some_iff, ← tsSeconds_eq_floor]
  cases value : tsValue ts with
  | none => simp [badTimestamp, value]
  | some v => simp [badTimestamp, value]

theorem badTimestamp_eq_true_iff {ts : Timestamp} : badTimestamp ts = true ↔ ¬ ∃ v, acceptable ts v := by
  rw [← badTimestamp_eq_false_iff, Bool.not_eq_false]

section FirstError

variable {s : State} (clear : s.err = 0)
include clear

/-- ENC_APP reports StrictRange before BufferOverflow (42_application.md R105, R106). -/
theorem execEncApp_firstError (app : AppOperands) :
    if s.cfg.strict = true ∧ outOfRange app then execEncApp app s = .next (s.withError 2 3 4)
    else if s.cfg.pbCap < s.len + 8 then execEncApp app s = .next (s.withError 4 0 4)
    else ∃ t, execEncApp app s = .next t ∧ t.err = 0 := by
  split_ifs with strict full
  · exact runCommand_strictRange clear (strictRefuses_iff.mpr strict) 0x4 _ _
  · exact execEncApp_overflows clear (strictRefuses_eq_false_iff.mpr strict) full
  · exact ⟨_, execEncApp_fits clear (strictRefuses_eq_false_iff.mpr strict) (not_lt.mp full), clear⟩

/-- SER_IQ reports NegCount before CountMismatch before BufferOverflow (43_iq_serializer.md R120). -/
theorem execSerIq_firstError (count : Int) (samples : List Sample) :
    if count < 0 then execSerIq count samples s = .next (s.withError 2 1 5)
    else if (samples.length : Int) < count then execSerIq count samples s = .next (s.withError 2 2 5)
    else if s.cfg.pbCap < s.len + 4 * count.toNat then execSerIq count samples s = .next (s.withError 4 0 5)
    else ∃ t, execSerIq count samples s = .next t ∧ t.err = 0 := by
  split_ifs with negative few full
  · exact execSerIq_negCount clear negative samples
  · exact execSerIq_countMismatch clear (not_lt.mp negative) few
  · rw [execSerIq_accepted (not_lt.mp negative) (not_lt.mp few)]
    exact runCommand_overflows clear full 0x5 _
  · rw [execSerIq_accepted (not_lt.mp negative) (not_lt.mp few)]
    exact ⟨_, runCommand_fits clear (not_lt.mp full) 0x5 _, clear⟩

/-- ASSEMBLE reports the first of its five errors that applies (44_composer.md R140). -/
theorem execAssemble_firstError (dst src : Mac) (mt : Nat) (flow : BitVec 16) (idx : Nat) (app : AppOperands)
    (count : Int) (samples : List Sample) :
    if s.cfg.strict = true ∧ outOfRange app then
      execAssemble dst src mt flow idx app count samples s = .next (s.withError 2 3 6)
    else if count < 0 then execAssemble dst src mt flow idx app count samples s = .next (s.withError 2 1 6)
    else if (samples.length : Int) < count then
      execAssemble dst src mt flow idx app count samples s = .next (s.withError 2 2 6)
    else if 65535 < 8 + 4 * count then
      execAssemble dst src mt flow idx app count samples s = .next (s.withError 2 4 6)
    else if (s.cfg.pbCap : Int) < 29 + 4 * count then
      execAssemble dst src mt flow idx app count samples s = .next (s.withError 4 0 6)
    else ∃ t, execAssemble dst src mt flow idx app count samples s = .next t ∧ t.err = 0 := by
  have first := firstError_assembleChecks (s := s) (app := app) (count := count) (samples := samples)
  split_ifs at first ⊢ with strict negative few large full
  · exact execAssemble_raises clear first
  · exact execAssemble_raises clear first
  · exact execAssemble_raises clear first
  · exact execAssemble_raises clear first
  · exact execAssemble_raises clear first
  · exact ⟨_, execAssemble_composes (assembleChecks_pass_iff.mp first) clear, clear⟩

/-- ENC_GHDR reports IllegalOp before BufferOverflow (46_capture_container.md R172). -/
theorem execEncGhdr_firstError :
    if s.cfg.hasContainer = false then execEncGhdr s = .next (s.withError 3 0 8)
    else if s.cfg.pbCap < 24 then execEncGhdr s = .next (s.withError 4 0 8)
    else ∃ t, execEncGhdr s = .next t ∧ t.err = 0 := by
  split_ifs with absent full
  · exact execEncGhdr_absent clear absent
  · rw [execEncGhdr_present (eq_true_of_ne_false absent)]
    exact runCommand_overflows clear (by omega) 0x8 _
  · rw [execEncGhdr_present (eq_true_of_ne_false absent)]
    exact ⟨_, runCommand_fits clear (by omega) 0x8 _, clear⟩

/-- ENC_REC on an empty frame raises EmptyPayload (46_capture_container.md R175). -/
theorem execEncRec_emptyPayload (present : s.cfg.hasContainer = true) (empty : s.len = 0) (ts : Timestamp) :
    execEncRec ts s = .next (s.withError 2 5 9) := by
  rw [execEncRec, runCommand_skip (by simp [present]), runCommand_raisesFirst clear (by simp [empty])]
  rfl

/-- ENC_REC of a frame with a timestamp that has no acceptable value raises BadTimestamp (46_capture_container.md
R175). -/
theorem execEncRec_badTimestamp (present : s.cfg.hasContainer = true) (filled : 0 < s.len) {ts : Timestamp}
    (bad : ¬ ∃ v, acceptable ts v) : execEncRec ts s = .next (s.withError 2 6 9) := by
  rw [execEncRec, runCommand_skip (by simp [present]), runCommand_skip (by simp [filled.ne']),
    runCommand_raisesFirst clear (badTimestamp_eq_true_iff.mpr bad)]
  rfl

/-- ENC_REC of a frame and a good timestamp without room for 16 bytes more raises BufferOverflow
(46_capture_container.md R175). -/
theorem execEncRec_overflows (present : s.cfg.hasContainer = true) (filled : 0 < s.len) {ts : Timestamp}
    (good : ∃ v, acceptable ts v) (full : s.cfg.pbCap < s.len + 16) :
    execEncRec ts s = .next (s.withError 4 0 9) := by
  rw [execEncRec, runCommand_skip (by simp [present]), runCommand_skip (by simp [filled.ne']),
    runCommand_skip (badTimestamp_eq_false_iff.mpr good), runCommand_overflows clear full]

end FirstError

/-- Settles O14: each command's checks stand in the order of the spec, so the first that holds raises its error. -/
theorem theFirstErrorIsReported : Obligations.TheFirstErrorIsReported := by
  refine fun s => ⟨exec_faulted, fun clear => ⟨execEncApp_firstError clear, execSerIq_firstError clear,
    execAssemble_firstError clear, fun z unmarked => execPatchSize_noHeader clear unmarked z,
    execEncGhdr_firstError clear, fun ts => ?_⟩⟩
  exact ⟨fun absent => execEncRec_absent clear absent ts,
    fun present empty => execEncRec_emptyPayload clear present empty ts,
    fun present filled bad => execEncRec_badTimestamp clear present filled bad,
    fun present filled good full => execEncRec_overflows clear present filled good full⟩

end Sys2Proof.Machine

/-! The reset input: where it leads, and that no other input leads out of a fault state. -/

namespace Sys2Proof.Machine

/-- A step with the reset input next takes it off the port and resets the block (70_reset_and_hazards.md R220). -/
theorem step_of_reset {s : State} {rest : List HostInput} (presented : s.input = .reset :: rest) :
    step s = .next (State.afterReset s.cfg rest) := by
  rw [step, presented]
  rfl

/-- Settles O3: the registers by definition, and without the reset input a faulted block keeps its error. -/
theorem resetInputGivesTheResetState : Obligations.ResetInputGivesTheResetState := by
  refine ⟨fun s rest presented => ?_, fun s t faulted h cleared => ?_⟩
  · exact ⟨_, step_of_reset presented, rfl, rfl, rfl, rfl, rfl, rfl, rfl, rfl⟩
  · obtain unchanged | reset := step_faulted faulted h
    · have kept : t.err = s.err := by rw [unchanged]
      exact absurd (kept.symm.trans cleared) faulted
    · exact reset

end Sys2Proof.Machine

/-! What a command does, said once: it is refused, or it raises one of its errors, or it completes as its rule says. The
statements about single steps, and those about sequences of commands, are read off this. -/

namespace Sys2Proof.Machine

/-- PATCH_SIZE's write: bytes 1 and 2 of the marked header (41_transport.md R93). -/
def State.patched (s : State) (z : BitVec 16) : State :=
  { s with pb := s.pb.write (s.tho + 1) (big16 z.toNat) }

/-- `s.Completed i t`: the checks of `i` let it pass in `s`, and its effect leaves `t`. One constructor for each of the nine
commands; the unassigned selectors never complete. -/
inductive State.Completed (s : State) : Instr → State → Prop
  /-- 45_control.md R160. -/
  | beginFrame : s.Completed .beginFrame s.truncate.dropHeader
  /-- 40_link_layer.md R80. -/
  | encEth (dst src : Mac) (room : s.len + 14 ≤ s.cfg.pbCap) :
    s.Completed (.encEth dst src) (s.append (linkBytes s.cfg dst src))
  /-- 41_transport.md R90. -/
  | encTransport (mt : Nat) (flow seq size : BitVec 16) (room : s.len + 7 ≤ s.cfg.pbCap) :
    s.Completed (.encTransport mt flow seq size)
      ((s.append (transportBytes s.cfg mt flow.toNat seq.toNat size.toNat)).markHeader s.len)
  /-- 41_transport.md R93. -/
  | patchSize (z : BitVec 16) (marked : s.thv = true) (inside : s.tho + 2 < s.len) :
    s.Completed (.patchSize z) (s.patched z)
  /-- 42_application.md R105, R106. -/
  | encApp (app : AppOperands) (accepted : strictRefuses s.cfg app = false) (room : s.len + 8 ≤ s.cfg.pbCap) :
    s.Completed (.encApp app) (s.append (appBytes s.cfg app))
  /-- 43_iq_serializer.md R120. -/
  | serIq (count : Int) (samples : List Sample) (nonneg : 0 ≤ count) (enough : count ≤ samples.length)
    (room : s.len + 4 * count.toNat ≤ s.cfg.pbCap) :
    s.Completed (.serIq count samples) (s.append (blockBytes (usedSamples count samples)))
  /-- 44_composer.md R140. -/
  | assemble (dst src : Mac) (mt : Nat) (flow : BitVec 16) (idx : Nat) (app : AppOperands) (count : Int)
    (samples : List Sample) (composes : s.Composes app count samples) :
    s.Completed (.assemble dst src mt flow idx app count samples)
      (s.composed dst src mt flow idx app (usedSamples count samples))
  /-- 46_capture_container.md R172. -/
  | encGhdr (present : s.cfg.hasContainer = true) (room : 24 ≤ s.cfg.pbCap) :
    s.Completed .encGhdr (s.truncate.dropHeader.append (globalBytes s.cfg))
  /-- 46_capture_container.md R175. -/
  | encRec (ts : Timestamp) (v : ℚ) (payload : List Byte) (present : s.cfg.hasContainer = true) (filled : 0 < s.len)
    (value : acceptable ts v) (room : s.len + 16 ≤ s.cfg.pbCap) (written : s.outBytes = some payload) :
    s.Completed (.encRec ts)
      (s.truncate.dropHeader.append
        (recordBytes ⌊v⌋.toNat ⌊(v - ⌊v⌋) * 1000000⌋.toNat s.len ++ payload))

/-! ### The timestamp split -/

/-- What is left of a rational after its whole seconds, as a quotient (46_capture_container.md R174). -/
theorem rat_sub_floor (v : ℚ) : v - ⌊v⌋ = ((v.num % v.den : ℤ) : ℚ) / (v.den : ℚ) := by
  have den : (v.den : ℚ) ≠ 0 := by exact_mod_cast v.den_ne_zero
  have whole : (v.num : ℚ) = v.den * (v.num / v.den : ℤ) + (v.num % v.den : ℤ) := by
    exact_mod_cast (Int.mul_ediv_add_emod v.num v.den).symm
  rw [← tsSeconds_eq_floor, tsSeconds, eq_div_iff den, sub_mul, Rat.mul_den_eq_num, whole]
  ring

theorem tsMicros_eq_floor (v : ℚ) : tsMicros v = ⌊(v - ⌊v⌋) * 1000000⌋ := by
  have quotient : (v - ⌊v⌋) * 1000000 = ((v.num % v.den * 1000000 : ℤ) : ℚ) / (v.den : ℚ) := by
    rw [rat_sub_floor]
    push_cast
    ring
  rw [quotient, Rat.floor_intCast_div_natCast]
  rfl

theorem tsMicros_nonneg (v : ℚ) : 0 ≤ tsMicros v := by
  rw [tsMicros_eq_floor]
  exact Int.floor_nonneg.mpr (mul_nonneg (sub_nonneg.mpr (Int.floor_le v)) (by norm_num))

theorem tsMicros_le (v : ℚ) : tsMicros v ≤ 999999 := by
  have below : tsMicros v < 1000000 := by
    rw [tsMicros_eq_floor, Int.floor_lt]
    push_cast
    linarith [Int.lt_floor_add_one v]
  omega

/-- Settles O42: both parts are floors, and what is left of the seconds is below one. -/
theorem timestampSplitIsExactAndBounded : Obligations.TimestampSplitIsExactAndBounded := fun v =>
  ⟨tsSeconds_eq_floor v, tsMicros_eq_floor v, tsMicros_nonneg v, tsMicros_le v⟩

/-- Settles O43: floors are monotone, and with equal seconds what is left of them is in order. -/
theorem timestampSplitIsMonotone : Obligations.TimestampSplitIsMonotone := by
  intro v w le
  change tsSeconds v < tsSeconds w ∨ (tsSeconds v = tsSeconds w ∧ tsMicros v ≤ tsMicros w)
  rw [tsSeconds_eq_floor, tsSeconds_eq_floor, tsMicros_eq_floor, tsMicros_eq_floor]
  refine (Int.floor_mono le).lt_or_eq.imp_right fun same => ⟨same, Int.floor_mono ?_⟩
  rw [same]
  linarith

/-! ### Inversion -/

/-- The record header of an acceptable timestamp in plain arithmetic: neither part of its split is negative
(46_capture_container.md R173, R174). -/
theorem recordHeader_of_acceptable {ts : Timestamp} {v : ℚ} (value : acceptable ts v) (n : Nat) :
    recordHeader (tsSplit v) n = recordBytes ⌊v⌋.toNat ⌊(v - ⌊v⌋) * 1000000⌋.toNat n := by
  obtain ⟨-, nonneg, -⟩ := value
  rw [← recordHeader_eq, Int.toNat_of_nonneg (Int.floor_nonneg.mpr nonneg), ← tsMicros_eq_floor,
    Int.toNat_of_nonneg (tsMicros_nonneg v), ← tsSeconds_eq_floor]
  rfl

/-- ENC_REC's effect with an acceptable timestamp (46_capture_container.md R175). -/
theorem State.wrapRecord_acceptable {ts : Timestamp} {v : ℚ} (value : acceptable ts v) (s : State)
    (payload : List Byte) :
    s.wrapRecord ts payload =
      .next (s.truncate.dropHeader.append
        (recordBytes ⌊v⌋.toNat ⌊(v - ⌊v⌋) * 1000000⌋.toNat s.len ++ payload)) := by
  have stands : tsValue ts = some v := by
    obtain ⟨stands, -, -⟩ := value
    exact tsValue_eq_some_iff.mpr stands
  rw [State.wrapRecord, stands, ← recordHeader_of_acceptable value]

/-- The checks of ENC_REC pass exactly where it has a frame to wrap, room and an acceptable timestamp
(46_capture_container.md R175). -/
theorem encRecChecks_pass_iff {ts : Timestamp} {s : State} :
    firstError [(!s.cfg.hasContainer, .illegalOp), (decide (s.len = 0), .precondition .emptyPayload),
      (badTimestamp ts, .precondition .badTimestamp), (s.lacksRoom s.len 16, .bufferOverflow)] = none ↔
      s.cfg.hasContainer = true ∧ 0 < s.len ∧ badTimestamp ts = false ∧ s.len + 16 ≤ s.cfg.pbCap := by
  simp [firstError_eq_none, State.lacksRoom_eq_false, Nat.pos_iff_ne_zero]

/-- ENC_REC with its checks passed reads the frame and wraps it (46_capture_container.md R175). -/
theorem execEncRec_passed {s : State} {ts : Timestamp} (clear : s.err = 0) (present : s.cfg.hasContainer = true)
    (filled : 0 < s.len) (good : badTimestamp ts = false) (room : s.len + 16 ≤ s.cfg.pbCap) :
    execEncRec ts s = s.memRead 0 s.len (s.wrapRecord ts) :=
  runCommand_runs clear (encRecChecks_pass_iff.mpr ⟨present, filled, good, room⟩) 0x9 _

/-- A command that completes answers the state it leaves. -/
theorem exec_of_completed {s t : State} {i : Instr} (clear : s.err = 0) (h : s.Completed i t) : exec i s = .next t := by
  cases h with
  | beginFrame => exact execBegin_runs clear
  | encEth dst src room => exact execEncEth_fits clear room dst src
  | encTransport mt flow seq size room => exact execEncTransport_fits clear room mt flow seq size
  | patchSize z marked inside => exact execPatchSize_inside clear marked inside z
  | encApp app accepted room => exact execEncApp_fits clear accepted room
  | serIq count samples nonneg enough room =>
    exact (execSerIq_accepted nonneg enough s).trans (runCommand_fits clear room 0x5 _)
  | assemble dst src mt flow idx app count samples composes => exact execAssemble_composes composes clear
  | encGhdr present room =>
    have fits : 0 + 24 ≤ s.cfg.pbCap := by omega
    rw [← globalHeader_eq]
    exact (execEncGhdr_present present).trans (runCommand_fits clear fits 0x8 _)
  | encRec ts v payload present filled value room written =>
    have good : badTimestamp ts = false := badTimestamp_eq_false_iff.mpr ⟨v, value⟩
    exact (execEncRec_passed clear present filled good room).trans
      ((State.memRead_of_some written).trans (s.wrapRecord_acceptable value payload))

/-- A command that ends in a next state with no error standing before it either completes or raises one of its errors
(60_exceptions.md R197 to R199). -/
def State.Answered (s : State) (i : Instr) (t : State) : Prop :=
  s.Completed i t ∨ ∃ e : CmdError, (e.kindCode, e.causeCode) ∈ canRaise s.cfg i ∧
    t = s.withError e.kindCode e.causeCode i.selector

/-- A command answers by raising or by completing as soon as its checks raise nothing but its errors and its effect, once
they pass, completes it. -/
theorem answered_of_runCommand {i : Instr} {checks : List (Bool × CmdError)} {effect : Answer} {s t : State}
    (clear : s.err = 0) (h : runCommand i.selector checks effect s = .next t)
    (raises : ∀ e, firstError checks = some e → (e.kindCode, e.causeCode) ∈ canRaise s.cfg i)
    (completes : firstError checks = none → effect = .next t → s.Completed i t) : s.Answered i t := by
  obtain ⟨faulted, -⟩ | ⟨-, e, first, rfl⟩ | ⟨-, pass, ran⟩ := runCommand_cases h
  · exact absurd clear faulted
  · exact .inr ⟨e, raises e first, rfl⟩
  · exact .inl (completes pass ran)

/-- The first error of a list is one whose codes the list's errors have. -/
theorem firstError_codes {checks : List (Bool × CmdError)} {codes : List (BitVec 4 × BitVec 4)}
    (h : ∀ c ∈ checks, (c.2.kindCode, c.2.causeCode) ∈ codes) (e : CmdError) (first : firstError checks = some e) :
    (e.kindCode, e.causeCode) ∈ codes :=
  h _ (firstError_mem first)

/-- ENC_GHDR raises IllegalOp alone without the container, and with it BufferOverflow where the buffer is too small
(60_exceptions.md R197). -/
theorem encGhdrChecks_codes {s : State} (e : CmdError)
    (first : firstError [(!s.cfg.hasContainer, .illegalOp), (s.lacksRoom 0 24, .bufferOverflow)] = some e) :
    (e.kindCode, e.causeCode) ∈ canRaise s.cfg .encGhdr := by
  by_cases present : s.cfg.hasContainer = true
  · rw [present, Bool.not_true, firstError, if_neg Bool.false_ne_true] at first
    obtain ⟨full, rfl⟩ : true = s.lacksRoom 0 24 ∧ e = .bufferOverflow := by simpa using firstError_mem first
    have small : s.cfg.pbCap < 24 := by simpa using State.lacksRoom_eq_true.mp full.symm
    simp [canRaise, present, small, CmdError.kindCode, CmdError.causeCode]
  · rw [Bool.eq_false_of_not_eq_true present, Bool.not_false, firstError, if_pos rfl] at first
    cases first
    simp [canRaise, present, CmdError.kindCode, CmdError.causeCode]

/-- ENC_REC raises IllegalOp alone without the container, and any other of its errors with it (60_exceptions.md R197). -/
theorem encRecChecks_codes {s : State} {ts : Timestamp} (e : CmdError)
    (first : firstError [(!s.cfg.hasContainer, .illegalOp), (decide (s.len = 0), .precondition .emptyPayload),
      (badTimestamp ts, .precondition .badTimestamp), (s.lacksRoom s.len 16, .bufferOverflow)] = some e) :
    (e.kindCode, e.causeCode) ∈ canRaise s.cfg (.encRec ts) := by
  by_cases present : s.cfg.hasContainer = true
  · rw [present, Bool.not_true, firstError, if_neg Bool.false_ne_true] at first
    refine firstError_codes ?_ e first
    simp [canRaise, present, CmdError.kindCode, CmdError.causeCode, Cause.code]
  · rw [Bool.eq_false_of_not_eq_true present, Bool.not_false, firstError, if_pos rfl] at first
    cases first
    simp [canRaise, present, CmdError.kindCode, CmdError.causeCode]

/-- An unassigned selector raises IllegalOp and never completes (60_exceptions.md R193). -/
theorem answered_of_unassigned {s t : State} {i : Instr} (clear : s.err = 0)
    (illegal : canRaise s.cfg i = [(3, 0)]) (h : runUnassigned i.selector s = .next t) : s.Answered i t := by
  rw [runUnassigned_raises clear] at h
  cases h
  exact .inr ⟨.illegalOp, by rw [illegal]; decide, rfl⟩

/-- Everything a command can answer with no error standing. -/
theorem exec_answered {s t : State} {i : Instr} (clear : s.err = 0) (h : exec i s = .next t) : s.Answered i t := by
  cases i with
  | beginFrame =>
    rw [show exec .beginFrame s = _ from execBegin_runs clear] at h
    cases h
    exact .inl .beginFrame
  | encEth dst src =>
    refine answered_of_runCommand clear h (firstError_codes (by simp [canRaise, CmdError.kindCode, CmdError.causeCode]))
      fun pass ran => ?_
    cases ran
    rw [linkHeader_eq]
    exact .encEth dst src (by simpa [firstError_eq_none, State.lacksRoom_eq_false] using pass)
  | encTransport mt flow seq size =>
    refine answered_of_runCommand clear h (firstError_codes (by simp [canRaise, CmdError.kindCode, CmdError.causeCode]))
      fun pass ran => ?_
    cases ran
    rw [transportHeader_eq]
    exact .encTransport mt flow seq size (by simpa [firstError_eq_none, State.lacksRoom_eq_false] using pass)
  | patchSize z =>
    refine answered_of_runCommand clear h (firstError_codes (by simp [canRaise, CmdError.kindCode, CmdError.causeCode]))
      fun pass ran => ?_
    obtain ⟨inside, rfl⟩ := State.memWrite_cases ran
    rw [be16_length] at inside
    rw [be16_eq]
    exact .patchSize z (by simpa [firstError_eq_none] using pass) (by omega)
  | encApp app =>
    refine answered_of_runCommand clear h
      (firstError_codes (by simp [canRaise, CmdError.kindCode, CmdError.causeCode, Cause.code])) fun pass ran => ?_
    cases ran
    simp only [firstError_eq_none, List.forall_mem_cons, State.lacksRoom_eq_false] at pass
    obtain ⟨accepted, room, -⟩ := pass
    rw [appHeader_eq]
    exact .encApp app accepted room
  | serIq count samples =>
    refine answered_of_runCommand clear h
      (firstError_codes (by simp [canRaise, CmdError.kindCode, CmdError.causeCode, Cause.code])) fun pass ran => ?_
    cases ran
    simp only [firstError_eq_none, List.forall_mem_cons, negCount_eq_false, tooFewSamples_eq_false,
      State.lacksRoom_eq_false] at pass
    obtain ⟨nonneg, enough, room, -⟩ := pass
    rw [iqBlock_eq]
    exact .serIq count samples nonneg enough room
  | assemble dst src mt flow idx app count samples =>
    refine answered_of_runCommand clear ((execAssemble_eq ..).symm.trans h)
      (firstError_codes (by simp [assembleChecks, canRaise, CmdError.kindCode, CmdError.causeCode, Cause.code]))
      fun pass ran => ?_
    cases ran
    exact .assemble dst src mt flow idx app count samples (assembleChecks_pass_iff.mp pass)
  | encGhdr =>
    refine answered_of_runCommand clear h encGhdrChecks_codes fun pass ran => ?_
    cases ran
    simp only [firstError_eq_none, List.forall_mem_cons, Bool.not_eq_false', State.lacksRoom_eq_false] at pass
    obtain ⟨present, room, -⟩ := pass
    rw [globalHeader_eq]
    exact .encGhdr present (by omega)
  | encRec ts =>
    refine answered_of_runCommand clear h encRecChecks_codes fun pass ran => ?_
    obtain ⟨present, filled, good, room⟩ := encRecChecks_pass_iff.mp pass
    obtain ⟨v, value⟩ := badTimestamp_eq_false_iff.mp good
    obtain ⟨payload, written, wrapped⟩ := State.memRead_cases ran
    rw [s.wrapRecord_acceptable value] at wrapped
    cases wrapped
    exact .encRec ts v payload present filled value room written
  | unassigned7 => exact answered_of_unassigned clear rfl h
  | unassignedAB low => exact answered_of_unassigned clear rfl h
  | unassignedCF low => exact answered_of_unassigned clear rfl h

end Sys2Proof.Machine

/-! The invariant: it holds at reset, every command and every step keeps it, and under it every command completes. -/

namespace Sys2Proof.Machine

/-- The invariant says nothing of what the host will present. -/
theorem State.Inv.withInput {s : State} (inv : s.Inv) (input : List HostInput) : State.Inv { s with input := input } :=
  { inv with }

/-- A reset state meets the invariant: its frame is empty and no error stands (10_state.md R20). -/
theorem State.afterReset_inv {c : Cfg} (cap : 29 ≤ c.pbCap) (input : List HostInput) : (State.afterReset c input).Inv where
  cap := cap
  len_le := Nat.zero_le _
  tho_le := by simp only [State.afterReset_tho, State.afterReset_cfg]; omega
  header := by simp
  wf := rfl
  inside := by simp
  written := by simp
  error := rfl
  quiet := fun _ => rfl

/-- Taking an error keeps the invariant: it writes a legal code, which is not 0 (60_exceptions.md R199). -/
theorem State.Inv.withError {s : State} (inv : s.Inv) {kind cause : BitVec 4} (legal : legalError kind cause = true)
    (raised : kind ≠ 0) (op : Selector) : (s.withError kind cause op).Inv :=
  { inv with error := legal, quiet := fun clear => absurd clear raised }

/-- An emptied frame without a header keeps the invariant (45_control.md R160). -/
theorem State.Inv.emptied {s : State} (inv : s.Inv) : s.truncate.dropHeader.Inv :=
  { inv with len_le := Nat.zero_le _, header := by simp, written := by simp }

/-- A byte stands where it stood before a write or where it was written. -/
theorem Memory.read_write_isSome {m : Memory} {a x : Nat} {bs : List Byte}
    (h : (m.read x).isSome ∨ a ≤ x ∧ x < a + bs.length) : ((m.write a bs).read x).isSome := by
  rw [Memory.read_write]
  split
  · rw [isSome_getElem?]
    omega
  · exact h.resolve_right ‹_›

/-- An append with room keeps the invariant (20_memory.md R31). -/
theorem State.Inv.append {s : State} (inv : s.Inv) {bs : List Byte} (room : s.len + bs.length ≤ s.cfg.pbCap) :
    (s.append bs).Inv where
  cap := inv.cap
  len_le := room
  tho_le := inv.tho_le
  header := fun marked => Nat.le_add_right_of_le (inv.header marked)
  wf := s.pb.write_wf s.len bs inv.wf
  inside := fun c mem => (Memory.mem_write mem).elim (inv.inside c) fun written => written.2.trans_le room
  written := fun a below => Memory.read_write_isSome <|
    (Nat.lt_or_ge a s.len).imp (inv.written a) fun above => ⟨above, below⟩
  error := inv.error
  quiet := inv.quiet

/-- Marking a header that lies inside the frame keeps the invariant (41_transport.md R93). -/
theorem State.Inv.markHeader {s : State} (inv : s.Inv) {o : Nat} (inside : o + 7 ≤ s.len) : (s.markHeader o).Inv :=
  { inv with tho_le := inside.trans inv.len_le, header := fun _ => inside }

/-- A fresh frame that fits the buffer keeps the invariant. -/
theorem State.Inv.reframed {s : State} (inv : s.Inv) {bs : List Byte} (room : bs.length ≤ s.cfg.pbCap) :
    (s.truncate.dropHeader.append bs).Inv :=
  inv.emptied.append ((Nat.zero_add _).trans_le room)

/-- A patch of a header inside the frame keeps the invariant: it writes over bytes of the frame (41_transport.md R93). -/
theorem State.Inv.patched {s : State} (inv : s.Inv) (inside : s.tho + 2 < s.len) (z : BitVec 16) : (s.patched z).Inv :=
  { inv with
    wf := s.pb.write_wf _ _ inv.wf
    inside := fun c mem => by
      have len_le := inv.len_le
      obtain old | ⟨-, below⟩ := Memory.mem_write mem
      · exact inv.inside c old
      · rw [big16_length] at below
        exact show c.1 < s.cfg.pbCap by omega
    written := fun a below => Memory.read_write_isSome (.inl (inv.written a below)) }

/-- A byte of the frame has been written, so the output port has a value (10_state.md R19). -/
theorem State.Inv.outBytes_isSome {s : State} (inv : s.Inv) : s.outBytes.isSome :=
  s.pb.readBytes_isSome 0 s.len fun x _ below => inv.written x (by omega)

/-- The payload the output port shows is as long as the frame. -/
theorem State.outBytes_length {s : State} {payload : List Byte} (written : s.outBytes = some payload) :
    payload.length = s.len :=
  ((s.pb.readBytes_eq_some 0 s.len payload).mp written).1

/-- A command that completes keeps the invariant. -/
theorem State.Inv.completed {s t : State} {i : Instr} (inv : s.Inv) (h : s.Completed i t) : t.Inv := by
  cases h with
  | beginFrame => exact inv.emptied
  | encEth dst src room => exact inv.append (by simpa using room)
  | encTransport mt flow seq size room => exact (inv.append (by simpa using room)).markHeader (by simp)
  | patchSize z marked inside => exact inv.patched inside z
  | encApp app accepted room => exact inv.append (by simpa using room)
  | serIq count samples nonneg enough room =>
    exact inv.append (by rwa [blockBytes_usedSamples_length enough])
  | assemble dst src mt flow idx app count samples composes =>
    obtain ⟨used, -⟩ := composes.usedSamples_size
    have room := composes.room
    have fresh : (s.truncate.dropHeader.append
        (packetBytes s.cfg dst src mt flow idx app (usedSamples count samples))).Inv :=
      inv.reframed (by rw [packetBytes_length]; omega)
    exact fresh.markHeader (by simp; omega)
  | encGhdr present room => exact inv.reframed (by simpa using room)
  | encRec ts v payload present filled value room written =>
    exact inv.reframed (by rw [List.length_append, recordBytes_length, State.outBytes_length written]; omega)

/-- Every command keeps the invariant. -/
theorem State.Inv.exec {s t : State} {i : Instr} (inv : s.Inv) (h : exec i s = .next t) : t.Inv := by
  by_cases clear : s.err = 0
  · obtain completed | ⟨e, raisable, rfl⟩ := exec_answered clear h
    · exact inv.completed completed
    · have raised := e.kindCode_ne_zero
      obtain ⟨legal, -⟩ := raisingWritesOnlyTheErrorRegisters i s _ clear h raised
      exact inv.withError legal raised _
  · rw [exec_faulted clear] at h
    cases h
    exact inv

/-- Settles O6: a step waits, resets or runs a command, and each of the three keeps the invariant. -/
theorem everyStepKeepsTheInvariant : Obligations.EveryStepKeepsTheInvariant := by
  intro s t inv h
  unfold step at h
  split at h
  · cases h
    exact inv
  · cases h
    exact State.afterReset_inv inv.cap _
  · exact (inv.withInput _).exec h

/-- Settles O7: `PB_CAP` is 65553 in the configuration of `State.reset`. -/
theorem resetStateMeetsTheInvariant : Obligations.ResetStateMeetsTheInvariant :=
  ⟨State.afterReset_inv (by decide) _, fun _ input cap => State.afterReset_inv cap input⟩

/-- Under the invariant every command completes: a marked header lies inside the frame, and its bytes are written. -/
theorem State.Inv.exec_completes {s : State} (inv : s.Inv) (i : Instr) : ∃ t, Machine.exec i s = .next t :=
  Machine.exec_completes (fun marked => by have := inv.header marked; omega) inv.outBytes_isSome i

/-- Settles O8: every command completes, and a step that runs none completes by definition. -/
theorem everyCommandAndStepCompletes : Obligations.EveryCommandAndStepCompletes := by
  refine fun s inv => ⟨inv.exec_completes, ?_⟩
  unfold step
  split
  · exact ⟨_, rfl⟩
  · exact ⟨_, rfl⟩
  · exact (inv.withInput _).exec_completes _

/-- Settles O47: the bytes of the frame are written, so the port reads them all. -/
theorem outputPortShowsTheFrame : Obligations.OutputPortShowsTheFrame := by
  intro s inv
  obtain ⟨bs, shown⟩ := Option.isSome_iff_exists.mp inv.outBytes_isSome
  obtain ⟨length, stands⟩ := (s.pb.readBytes_eq_some 0 s.len bs).mp shown
  exact ⟨bs, shown, length, stands⟩

/-- After a patch the header's size field reads as the value patched in (41_transport.md R93). -/
theorem State.patched_size (s : State) (z : BitVec 16) :
    ∃ hi lo : Byte, (s.patched z).pb.read (s.tho + 1) = some hi ∧ (s.patched z).pb.read (s.tho + 2) = some lo ∧
      hi.toNat * 256 + lo.toNat = z.toNat :=
  ⟨_, _, s.pb.read_write_inside (s.tho + 1) (big16 z.toNat) 0 Nat.zero_lt_two,
    s.pb.read_write_inside (s.tho + 1) (big16 z.toNat) 1 Nat.one_lt_two, octet_high_low z.isLt⟩

/-- Settles O21: the header lies inside the frame, and the count of the bytes after it fits the field. -/
theorem patchedSizeCountsWhatFollowsTheHeader : Obligations.PatchedSizeCountsWhatFollowsTheHeader := by
  intro s inv clear marked short
  have header := inv.header marked
  obtain ⟨hi, lo, read1, read2, size⟩ := s.patched_size (BitVec.ofNat 16 (s.len - s.tho - 7))
  rw [BitVec.toNat_ofNat, Nat.mod_eq_of_lt (by omega)] at size
  refine ⟨_, hi, lo, execPatchSize_inside clear marked (by omega) _, read1, read2, ?_⟩
  exact show s.tho + 7 + (hi.toNat * 256 + lo.toNat) = s.len by omega

end Sys2Proof.Machine

/-! The stops: which commands fault, and where. -/

namespace Sys2Proof.Machine

/-- A command faults exactly where its effect does, once its checks let it pass. -/
theorem runCommand_fault_iff {op : Selector} {checks : List (Bool × CmdError)} {effect : Answer} {s : State}
    {r : Fault} :
    runCommand op checks effect s = .fault r ↔ s.err = 0 ∧ firstError checks = none ∧ effect = .fault r := by
  by_cases clear : s.err = 0
  · cases first : firstError checks with
    | some e => simp [runCommand_raises clear first]
    | none => simp [runCommand_runs clear first, clear]
  · simp only [runCommand_faulted clear, reduceCtorEq, clear, false_and]

/-- Every command but PATCH_SIZE and ENC_REC completes on every state: its effect is a next state. -/
theorem exec_completes_or_patch_or_rec (i : Instr) (s : State) :
    (∃ t, exec i s = .next t) ∨ (∃ z, i = .patchSize z) ∨ ∃ ts, i = .encRec ts := by
  cases i with
  | patchSize z => exact .inr (.inl ⟨z, rfl⟩)
  | encRec ts => exact .inr (.inr ⟨ts, rfl⟩)
  | beginFrame => exact .inl (execBegin_completes s)
  | encEth | encTransport | encApp | serIq | assemble | encGhdr => exact .inl (runCommand_next_completes ..)
  | unassigned7 | unassignedAB | unassignedCF => exact .inl (runUnassigned_completes _ s)

theorem State.memWrite_fault_iff {a : Nat} {bs : List Byte} {s : State} {r : Fault} :
    s.memWrite a bs = .fault r ↔ r = .accessOutsideFrame ∧ s.len < a + bs.length := by
  unfold State.memWrite
  split
  next inside => simp [inside]
  next outside => simpa [eq_comm] using fun _ => not_le.mp outside

theorem Memory.readBytes_eq_none (m : Memory) (a n : Nat) :
    m.readBytes a n = none ↔ ∃ x, a ≤ x ∧ x < a + n ∧ m.read x = none := by
  constructor
  · intro unread
    by_contra written
    push Not at written
    have stands := m.readBytes_isSome a n fun x above below => Option.isSome_iff_ne_none.mpr (written x above below)
    simp [unread] at stands
  · rintro ⟨x, above, below, missing⟩
    by_contra some
    obtain ⟨bs, read⟩ := Option.ne_none_iff_exists'.mp some
    obtain ⟨length, stands⟩ := (m.readBytes_eq_some a n bs).mp read
    have byte := stands (x - a) (by omega)
    rw [Nat.add_sub_cancel' above, missing] at byte
    cases byte

/-- The frame cannot be read exactly where one of its bytes was never written (10_state.md R20). -/
theorem State.outBytes_eq_none {s : State} : s.outBytes = none ↔ ∃ a, a < s.len ∧ s.pb.read a = none := by
  rw [State.outBytes, Memory.readBytes_eq_none]
  simp

theorem State.memRead_fault_iff {ts : Timestamp} {s : State} {r : Fault} :
    s.memRead 0 s.len (s.wrapRecord ts) = .fault r ↔ r = .unwrittenByte ∧ ∃ a, a < s.len ∧ s.pb.read a = none := by
  rw [← State.outBytes_eq_none]
  cases written : s.outBytes with
  | none =>
    rw [State.memRead, show s.pb.readBytes 0 s.len = none from written]
    simp [eq_comm]
  | some payload =>
    obtain ⟨t, wrapped⟩ := s.wrapRecord_completes ts payload
    rw [State.memRead_of_some written, wrapped]
    simp

/-- PATCH_SIZE faults exactly where its marked bytes are not inside the frame (log 11). -/
theorem execPatchSize_fault_iff {z : BitVec 16} {s : State} {r : Fault} :
    execPatchSize z s = .fault r ↔ r = .accessOutsideFrame ∧ s.err = 0 ∧ s.thv = true ∧ s.len < s.tho + 3 := by
  rw [execPatchSize, runCommand_fault_iff, State.memWrite_fault_iff, be16_length]
  simp only [firstError_eq_none, List.forall_mem_singleton, Bool.not_eq_false']
  tauto

/-- ENC_REC faults exactly where its checks pass and a byte of the frame was never written (log 5). -/
theorem execEncRec_fault_iff {ts : Timestamp} {s : State} {r : Fault} :
    execEncRec ts s = .fault r ↔ r = .unwrittenByte ∧ badTimestamp ts = false ∧ s.err = 0 ∧
      s.cfg.hasContainer = true ∧ 0 < s.len ∧ s.len + 16 ≤ s.cfg.pbCap ∧ ∃ a, a < s.len ∧ s.pb.read a = none := by
  rw [execEncRec, runCommand_fault_iff, encRecChecks_pass_iff, State.memRead_fault_iff]
  tauto

/-- A command is refused only where its effect is. -/
theorem runCommand_ne_refused {op : Selector} {checks : List (Bool × CmdError)} {effect : Answer} {s : State}
    {r : Refusal} (h : effect ≠ .refused r) : runCommand op checks effect s ≠ .refused r := by
  by_cases clear : s.err = 0
  · cases first : firstError checks with
    | some e => simp [runCommand_raises clear first]
    | none => rwa [runCommand_runs clear first]
  · simp [runCommand_faulted clear]

/-- No command is refused: every one is modelled. -/
theorem exec_ne_refused (i : Instr) (s : State) (r : Refusal) : exec i s ≠ .refused r := by
  obtain ⟨t, done⟩ | ⟨z, rfl⟩ | ⟨ts, rfl⟩ := exec_completes_or_patch_or_rec i s
  · rw [done]
    nofun
  · refine runCommand_ne_refused ?_
    unfold State.memWrite
    split <;> nofun
  · refine runCommand_ne_refused ?_
    unfold State.memRead
    split
    next payload _ =>
      obtain ⟨t, wrapped⟩ := s.wrapRecord_completes ts payload
      rw [wrapped]
      nofun
    · nofun

/-- Settles O9: every other command's effect is a next state; PATCH_SIZE's is a write and ENC_REC's begins with a
read. -/
theorem stopsAreExactlyTheTwoFaults : Obligations.StopsAreExactlyTheTwoFaults := by
  refine ⟨fun i s r => ?_, exec_ne_refused⟩
  obtain ⟨t, done⟩ | ⟨z, rfl⟩ | ⟨ts, rfl⟩ := exec_completes_or_patch_or_rec i s
  · refine iff_of_false (by simp [done]) ?_
    rintro (⟨rfl, ⟨z, rfl⟩, outside⟩ | ⟨rfl, ⟨ts, rfl, good⟩, unwritten⟩)
    · cases done.symm.trans (execPatchSize_fault_iff.mpr ⟨rfl, outside⟩)
    · cases done.symm.trans (execEncRec_fault_iff.mpr ⟨rfl, good, unwritten⟩)
  · rw [show exec (.patchSize z) s = .fault r ↔ _ from execPatchSize_fault_iff]
    simp
  · rw [show exec (.encRec ts) s = .fault r ↔ _ from execEncRec_fault_iff]
    simp

end Sys2Proof.Machine

/-! What a command that completes leaves: its errors and setting, its length and its marker. -/

namespace Sys2Proof.Machine

/-- A command that ends without an error completed (60_exceptions.md R199: raising leaves one). -/
theorem exec_completed {s t : State} {i : Instr} (clear : s.err = 0) (h : exec i s = .next t) (done : t.err = 0) :
    s.Completed i t := by
  obtain completed | ⟨e, -, rfl⟩ := exec_answered clear h
  · exact completed
  · exact absurd done e.kindCode_ne_zero

/-- A command that ends with an error raised it and changed nothing else. -/
theorem exec_raised {s t : State} {i : Instr} (clear : s.err = 0) (h : exec i s = .next t) (raised : t.err ≠ 0) :
    t = s.withError t.err t.errCause i.selector :=
  (raisingWritesOnlyTheErrorRegisters i s t clear h raised).2

/-- No effect touches the error registers, the configuration or what the host presents (10_state.md R13 to R15). -/
theorem State.Completed.keeps {s t : State} {i : Instr} (h : s.Completed i t) : s.SameErrors t ∧ s.SameSetting t := by
  cases h <;> exact ⟨⟨rfl, rfl, rfl⟩, rfl, rfl⟩

theorem State.Completed.len_eq {s t : State} {i : Instr} (h : s.Completed i t) : t.len = lengthAfter s.len i := by
  cases h with
  | beginFrame | patchSize => rfl
  | encEth | encTransport | encApp | encGhdr => simp [lengthAfter]
  | serIq count samples nonneg enough room =>
    rw [State.append_len, blockBytes_usedSamples_length enough, lengthAfter]
  | assemble dst src mt flow idx app count samples composes =>
    rw [State.composed_len, usedSamples_length composes.enough, lengthAfter]
  | encRec ts v payload present filled value room written =>
    simp only [State.append_len, State.dropHeader_len, State.truncate_len, List.length_append, recordBytes_length,
      State.outBytes_length written, lengthAfter]
    omega

/-- A command that completes stays within the buffer (10_state.md R12): its room was checked. -/
theorem State.Completed.len_le {s t : State} {i : Instr} (h : s.Completed i t) (fits : s.len ≤ s.cfg.pbCap) :
    t.len ≤ s.cfg.pbCap := by
  rw [h.len_eq]
  cases h with
  | beginFrame => exact Nat.zero_le _
  | patchSize => exact fits
  | encEth _ _ room | encTransport _ _ _ _ room | encApp _ _ room | serIq _ _ _ _ room | encGhdr _ room
  | encRec _ _ _ _ _ _ room _ => exact room
  | assemble dst src mt flow idx app count samples composes =>
    have room := composes.room
    have nonneg := composes.nonneg
    rw [lengthAfter]
    omega

theorem State.Completed.thv_eq {s t : State} {i : Instr} (h : s.Completed i t) : t.thv = markedAfter s.thv i := by
  cases h <;> rfl

/-- Settles O12: a command that does not raise completed, and effects leave all of these. -/
theorem completingLeavesErrorsAndConfiguration : Obligations.CompletingLeavesErrorsAndConfiguration :=
  fun _ _ _ clear h done => (exec_completed clear h done).keeps

/-- Settles O13: a command that raises did not complete, as completing leaves ERR at 0. -/
theorem eachCommandRaisesOnlyItsErrors : Obligations.EachCommandRaisesOnlyItsErrors := by
  intro i s t clear h raised
  obtain completed | ⟨e, raisable, rfl⟩ := exec_answered clear h
  · obtain ⟨⟨sameErr, -, -⟩, -⟩ := completed.keeps
    exact absurd (sameErr.trans clear) raised
  · exact raisable

/-- Settles O44: a command that completes moves LEN by its rule, within the room it checked, and one that raises leaves
it. -/
theorem eachCommandMovesLenAsItsRuleSays : Obligations.EachCommandMovesLenAsItsRuleSays := by
  intro i s t clear h
  refine ⟨fun done => (exec_completed clear h done).len_eq, fun raised => ?_, fun fits => ?_⟩
  · rw [exec_raised clear h raised]
    rfl
  · obtain completed | ⟨e, -, rfl⟩ := exec_answered clear h
    · exact completed.len_le fits
    · exact fits

/-- Settles O45: a command that completes sets and clears THV by its rule, and one that raises leaves it. -/
theorem headerMarkerFollowsItsRule : Obligations.HeaderMarkerFollowsItsRule := by
  intro i s t clear h
  refine ⟨fun done => (exec_completed clear h done).thv_eq, fun raised => ?_, ?_⟩
  · rw [exec_raised clear h raised]
    rfl
  · rintro ⟨z, rfl⟩ unmarked
    cases h.symm.trans (execPatchSize_noHeader clear unmarked z)
    rfl

/-- Settles O46: the three commands clear THV, and PATCH_SIZE looks at nothing else first. -/
theorem noHeaderIsLeftAfterBeginGhdrRec : Obligations.NoHeaderIsLeftAfterBeginGhdrRec := by
  intro i s t z which h clear done
  have thv := (exec_completed clear h done).thv_eq
  obtain rfl | rfl | ⟨ts, rfl⟩ := which <;> exact execPatchSize_noHeader done thv z

/-- No command changes the configuration (10_state.md R14). -/
theorem exec_cfg {s t : State} {i : Instr} (h : exec i s = .next t) : t.cfg = s.cfg := by
  by_cases clear : s.err = 0
  · obtain completed | ⟨e, -, rfl⟩ := exec_answered clear h
    · obtain ⟨-, sameCfg, -⟩ := completed.keeps
      exact sameCfg
    · rfl
  · cases h.symm.trans (exec_faulted clear i)
    rfl

/-- Settles O48: neither a command nor the reset input writes the configuration. -/
theorem noStepChangesTheConfiguration : Obligations.NoStepChangesTheConfiguration := by
  intro s t h
  unfold step at h
  split at h
  · cases h
    rfl
  · cases h
    rfl
  next rest _ => exact exec_cfg (s := { s with input := rest }) h

/-- Settles O40: the room check decides between the fresh frame of the header, and BufferOverflow. -/
theorem encGhdrLeavesTheGlobalHeader : Obligations.EncGhdrLeavesTheGlobalHeader := by
  intro s clear present
  refine ⟨fun room => ?_, fun full => ?_⟩
  · exact ⟨_, exec_of_completed clear (.encGhdr present room), s.dropHeader.truncate_append_reframed _, rfl, rfl⟩
  · exact (execEncGhdr_present present).trans (runCommand_overflows clear (by omega) 0x8 _)

/-- Settles O41: its checks passed, ENC_REC writes the header and the frame it read as a fresh frame. -/
theorem encRecWrapsTheFrame : Obligations.EncRecWrapsTheFrame := by
  intro s ts v payload clear present filled room written value
  have completed := State.Completed.encRec ts v payload present filled value room written
  exact ⟨_, exec_of_completed clear completed, s.dropHeader.truncate_append_reframed _, completed.len_eq, rfl, rfl⟩

end Sys2Proof.Machine

/-! Writes to the packet buffer one after another: a write behind a write extends it, a write over one replaces it. -/

namespace Sys2Proof.Machine

theorem Memory.cells_append (a : Nat) (xs ys : List Byte) :
    Memory.cells a (xs ++ ys) = Memory.cells a xs ++ Memory.cells (a + xs.length) ys := by
  induction xs generalizing a with
  | nil => rfl
  | cons x xs ih =>
    simp only [List.cons_append, Memory.cells, ih, List.length_cons]
    rw [Nat.add_assoc, Nat.add_comm 1]

/-! The cells below an address or from it on, selected once more by another address. -/

theorem Memory.filter_below_below (m : Memory) {a b : Nat} (le : a ≤ b) :
    (m.filter fun c => decide (c.1 < a)).filter (fun c => decide (c.1 < b)) = m.filter fun c => decide (c.1 < a) :=
  List.filter_eq_self.mpr fun _ mem => decide_eq_true ((of_decide_eq_true (List.mem_filter.mp mem).2).trans_le le)

theorem Memory.filter_above_below (m : Memory) {a b : Nat} (le : b ≤ a) :
    (m.filter fun c => decide (a ≤ c.1)).filter (fun c => decide (c.1 < b)) = [] :=
  List.filter_eq_nil_iff.mpr fun _ mem below =>
    absurd (of_decide_eq_true below) (le.trans (of_decide_eq_true (List.mem_filter.mp mem).2)).not_gt

theorem Memory.filter_below_above (m : Memory) {a b : Nat} (le : a ≤ b) :
    (m.filter fun c => decide (c.1 < a)).filter (fun c => decide (b ≤ c.1)) = [] :=
  List.filter_eq_nil_iff.mpr fun _ mem above =>
    absurd (of_decide_eq_true above) ((of_decide_eq_true (List.mem_filter.mp mem).2).trans_le le).not_ge

theorem Memory.filter_above_above (m : Memory) {a b : Nat} (le : a ≤ b) :
    (m.filter fun c => decide (a ≤ c.1)).filter (fun c => decide (b ≤ c.1)) = m.filter fun c => decide (b ≤ c.1) := by
  rw [List.filter_filter]
  refine List.filter_congr fun c _ => ?_
  rw [← Bool.decide_and, decide_eq_decide]
  exact and_iff_left_of_imp le.trans

theorem Memory.filter_above_self (m : Memory) {a b : Nat} (le : b ≤ a) :
    (m.filter fun c => decide (a ≤ c.1)).filter (fun c => decide (b ≤ c.1)) = m.filter fun c => decide (a ≤ c.1) :=
  List.filter_eq_self.mpr fun _ mem => decide_eq_true (le.trans (of_decide_eq_true (List.mem_filter.mp mem).2))

/-! The written cells, each whole on one side of a place outside them. -/

theorem Memory.cells_filter_below {a b : Nat} {xs : List Byte} (le : a + xs.length ≤ b) :
    (Memory.cells a xs).filter (fun c => decide (c.1 < b)) = Memory.cells a xs :=
  List.filter_eq_self.mpr fun c mem => decide_eq_true ((Memory.cells_bounds a xs c mem).2.trans_le le)

theorem Memory.cells_filter_below_nil {a b : Nat} {xs : List Byte} (le : b ≤ a) :
    (Memory.cells a xs).filter (fun c => decide (c.1 < b)) = [] :=
  List.filter_eq_nil_iff.mpr fun c mem below =>
    absurd (of_decide_eq_true below) (le.trans (Memory.cells_bounds a xs c mem).1).not_gt

theorem Memory.cells_filter_above {a b : Nat} {xs : List Byte} (le : b ≤ a) :
    (Memory.cells a xs).filter (fun c => decide (b ≤ c.1)) = Memory.cells a xs :=
  List.filter_eq_self.mpr fun c mem => decide_eq_true (le.trans (Memory.cells_bounds a xs c mem).1)

theorem Memory.cells_filter_above_nil {a b : Nat} {xs : List Byte} (le : a + xs.length ≤ b) :
    (Memory.cells a xs).filter (fun c => decide (b ≤ c.1)) = [] :=
  List.filter_eq_nil_iff.mpr fun c mem above =>
    absurd (of_decide_eq_true above) ((Memory.cells_bounds a xs c mem).2.trans_le le).not_ge

/-- What a write leaves below a place inside it: the old cells below the write and the written ones up to the place. -/
theorem Memory.write_filter_below (m : Memory) (a : Nat) (xs ys : List Byte) :
    (m.write a (xs ++ ys)).filter (fun c => decide (c.1 < a + xs.length)) =
      m.filter (fun c => decide (c.1 < a)) ++ Memory.cells a xs := by
  rw [Memory.write, Memory.cells_append, List.filter_append, List.filter_append, List.filter_append,
    m.filter_below_below (Nat.le_add_right ..), Memory.cells_filter_below le_rfl, Memory.cells_filter_below_nil le_rfl,
    m.filter_above_below (by simp), List.append_nil, List.append_nil]

/-- What a write leaves from a place inside it on: the written cells from the place on and the old ones above the
write. -/
theorem Memory.write_filter_above (m : Memory) (a : Nat) (xs ys : List Byte) :
    (m.write a (xs ++ ys)).filter (fun c => decide (a + xs.length ≤ c.1)) =
      Memory.cells (a + xs.length) ys ++ m.filter (fun c => decide (a + (xs ++ ys).length ≤ c.1)) := by
  rw [Memory.write, Memory.cells_append, List.filter_append, List.filter_append, List.filter_append,
    m.filter_below_above (Nat.le_add_right ..), Memory.cells_filter_above_nil le_rfl,
    Memory.cells_filter_above le_rfl, m.filter_above_self (by simp), List.nil_append, List.nil_append]

/-- What a write leaves above it: the old cells. -/
theorem Memory.write_filter_beyond (m : Memory) (a : Nat) (xs : List Byte) (n : Nat) (beyond : xs.length ≤ n) :
    (m.write a xs).filter (fun c => decide (a + n ≤ c.1)) = m.filter (fun c => decide (a + n ≤ c.1)) := by
  rw [Memory.write, List.filter_append, List.filter_append, m.filter_below_above (Nat.le_add_right ..),
    Memory.cells_filter_above_nil (by omega), m.filter_above_above (by omega), List.nil_append, List.nil_append]

/-- A write right behind a write is one write. -/
theorem Memory.write_write_behind (m : Memory) (a : Nat) (xs ys : List Byte) :
    (m.write a xs).write (a + xs.length) ys = m.write a (xs ++ ys) := by
  have below := m.write_filter_below a xs []
  rw [List.append_nil] at below
  rw [Memory.write, below, Nat.add_assoc, Memory.write_filter_beyond _ _ _ _ (Nat.le_add_right ..), Memory.write,
    Memory.cells_append, List.length_append, List.append_assoc _ _ (Memory.cells _ ys)]

/-- A write over a part of a write replaces that part. -/
theorem Memory.write_write_over (m : Memory) (a : Nat) (xs ys zs bs : List Byte) (same : bs.length = ys.length) :
    (m.write a (xs ++ ys ++ zs)).write (a + xs.length) bs = m.write a (xs ++ bs ++ zs) := by
  have below := m.write_filter_below a xs (ys ++ zs)
  have above := m.write_filter_above a (xs ++ ys) zs
  rw [← List.append_assoc] at below
  rw [List.length_append, ← same, ← Nat.add_assoc] at above
  rw [Memory.write, below, above, Memory.write, Memory.cells_append, Memory.cells_append]
  simp [same, Nat.add_assoc]

end Sys2Proof.Machine


/-! Commands issued one after another: a frame's bytes in the end are those of its appends, and a size patched into a
header is as good as one written with it. -/

namespace Sys2Proof.Machine

/-! ### Appends and patches one after another -/

theorem State.append_append (s : State) (xs ys : List Byte) : (s.append xs).append ys = s.append (xs ++ ys) := by
  simp [State.append, Memory.write_write_behind, Nat.add_assoc]

theorem State.markHeader_append (s : State) (o : Nat) (bs : List Byte) :
    (s.markHeader o).append bs = (s.append bs).markHeader o := rfl

/-- A patch writes the same bytes over its own. -/
theorem State.patched_patched (s : State) (z : BitVec 16) : (s.patched z).patched z = s.patched z := by
  have replaced := s.pb.write_write_over (s.tho + 1) [] (big16 z.toNat) [] (big16 z.toNat) rfl
  simp only [List.nil_append, List.append_nil, List.length_nil, Nat.add_zero] at replaced
  simp [State.patched, replaced]

/-- A size patched into a transport header replaces the one written with it, whatever was appended since
(41_transport.md R94). -/
theorem State.transport_patched (s : State) (c : Cfg) (mt flow seq size : Nat) (z : BitVec 16) (bs : List Byte) :
    ((s.append (transportBytes c mt flow seq size ++ bs)).markHeader s.len).patched z =
      (s.append (transportBytes c mt flow seq z.toNat ++ bs)).markHeader s.len := by
  have replaced := s.pb.write_write_over s.len [octet (c.version.toNat * 2 ^ 4 + mt % 4)] (big16 size)
    (big16 flow ++ big16 seq ++ bs) (big16 z.toNat) rfl
  simpa [State.patched, State.append, State.markHeader, transportBytes] using replaced

/-- Settles O20: the first PATCH_SIZE leaves an error, which refuses the second, or the bytes the second writes. -/
theorem patchSizeIsIdempotent : Obligations.PatchSizeIsIdempotent := by
  intro s t z h
  by_cases clear : s.err = 0
  · obtain completed | ⟨e, -, rfl⟩ := exec_answered clear h
    · cases completed with
      | patchSize z marked inside =>
        have again := exec_of_completed (s := s.patched z) clear (.patchSize z marked inside)
        rwa [s.patched_patched z] at again
    · exact exec_faulted e.kindCode_ne_zero _
  · cases h.symm.trans (exec_faulted clear _)
    exact h

/-! ### Runs -/

theorem State.alike_refl (s : State) : s.Alike s :=
  ⟨rfl, fun _ _ => rfl, rfl, fun _ => rfl, rfl, rfl, rfl, rfl⟩

theorem execAll_cons {s u : State} {i : Instr} (h : exec i s = .next u) (is : List Instr) :
    execAll (i :: is) s = execAll is u := by
  rw [execAll, h]

/-- A run that ends in a next state ran its first command and then the others. -/
theorem execAll_cons_next {s t : State} {i : Instr} {is : List Instr} (h : execAll (i :: is) s = .next t) :
    ∃ u, exec i s = .next u ∧ execAll is u = .next t := by
  rw [execAll] at h
  split at h
  next u first => exact ⟨u, first, h⟩
  · cases h
  · cases h

theorem execAll_append {s u : State} {is : List Instr} (h : execAll is s = .next u) (js : List Instr) :
    execAll (is ++ js) s = execAll js u := by
  induction is generalizing s with
  | nil =>
    cases h
    rfl
  | cons i is ih =>
    obtain ⟨v, first, rest⟩ := execAll_cons_next h
    rw [List.cons_append, execAll_cons first, ih rest]

/-- While an error stands a run changes nothing (60_exceptions.md R200). -/
theorem execAll_faulted {s : State} (faulted : s.err ≠ 0) (is : List Instr) : execAll is s = .next s := by
  induction is with
  | nil => rfl
  | cons i is ih => rw [execAll_cons (exec_faulted faulted i), ih]

/-- A run that ends without an error completed its first command: an error would have stayed. -/
theorem execAll_cons_completed {s t : State} {i : Instr} {is : List Instr} (clear : s.err = 0)
    (h : execAll (i :: is) s = .next t) (done : t.err = 0) :
    ∃ u, s.Completed i u ∧ u.err = 0 ∧ execAll is u = .next t := by
  obtain ⟨u, first, rest⟩ := execAll_cons_next h
  by_cases passed : u.err = 0
  · exact ⟨u, exec_completed clear first passed, passed, rest⟩
  · cases rest.symm.trans (execAll_faulted passed is)
    exact absurd done passed

/-- A plain append that completes appends bytes that depend on the configuration alone, with room checked against the
length alone (20_memory.md R31). -/
theorem State.Completed.plainAppend {s t : State} {i : Instr} (h : s.Completed i t) (plain : plainAppend i = true) :
    ∃ bs, t = s.append bs ∧ ∀ s' : State, s'.cfg = s.cfg → s'.len = s.len → s'.Completed i (s'.append bs) := by
  cases h with
  | encEth dst src room =>
    refine ⟨_, rfl, fun s' sameCfg sameLen => ?_⟩
    rw [← sameCfg]
    exact .encEth dst src (by rwa [sameLen, sameCfg])
  | encApp app accepted room =>
    refine ⟨_, rfl, fun s' sameCfg sameLen => ?_⟩
    rw [← sameCfg]
    exact .encApp app (by rwa [sameCfg]) (by rwa [sameLen, sameCfg])
  | serIq count samples nonneg enough room =>
    exact ⟨_, rfl, fun s' sameCfg sameLen => .serIq count samples nonneg enough (by rwa [sameLen, sameCfg])⟩
  | beginFrame | encTransport | patchSize | assemble | encGhdr | encRec => cases plain

/-- Plain appends that run without an error behind some bytes run behind any others of the same length, and append the
same. -/
theorem execAll_plainAppends {is : List Instr} (plain : ∀ i ∈ is, plainAppend i = true) {s t : State} (clear : s.err = 0)
    {xs ys : List Byte} (same : ys.length = xs.length) (h : execAll is (s.append xs) = .next t) (done : t.err = 0) :
    ∃ bs, t = s.append (xs ++ bs) ∧ execAll is (s.append ys) = .next (s.append (ys ++ bs)) := by
  induction is generalizing xs ys with
  | nil =>
    cases h
    exact ⟨[], by simp, by simp [execAll]⟩
  | cons i is ih =>
    rw [List.forall_mem_cons] at plain
    obtain ⟨plainFirst, plainRest⟩ := plain
    obtain ⟨u, completed, -, rest⟩ := execAll_cons_completed (s := s.append xs) clear h done
    obtain ⟨bs, rfl, elsewhere⟩ := completed.plainAppend plainFirst
    have other := exec_of_completed (s := s.append ys) clear (elsewhere (s.append ys) rfl (congrArg (s.len + ·) same))
    rw [State.append_append] at rest other
    obtain ⟨cs, rfl, run⟩ := ih plainRest (ys := ys ++ bs) (by simpa using same) rest
    exact ⟨bs ++ cs, by rw [List.append_assoc], by rw [execAll_cons other, run, List.append_assoc]⟩

/-- A run with the payload size written up front leaves the very state of the same run with the size patched in
afterwards (41_transport.md R94). -/
theorem execAll_deferred {s t : State} {mt : Nat} {flow seq size : BitVec 16} {is : List Instr} (clear : s.err = 0)
    (plain : ∀ i ∈ is, plainAppend i = true) (h : execAll (.encTransport mt flow seq size :: is) s = .next t)
    (done : t.err = 0) :
    execAll (encTransportDeferred mt flow seq :: (is ++ [.patchSize size])) s = .next t := by
  obtain ⟨u, completed, -, rest⟩ := execAll_cons_completed clear h done
  cases completed with
  | encTransport mt flow seq size room =>
    have first := exec_of_completed clear (.encTransport mt flow seq 0 room)
    rw [← State.markHeader_append] at rest first
    obtain ⟨bs, rfl, run⟩ := execAll_plainAppends (s := s.markHeader s.len)
      (ys := transportBytes s.cfg mt flow.toNat seq.toNat (0 : BitVec 16).toNat) plain clear (by simp) rest done
    have inside :
        s.len + 2 < (s.append (transportBytes s.cfg mt flow.toNat seq.toNat (0 : BitVec 16).toNat ++ bs)).len := by
      simp only [State.append_len, List.length_append, transportBytes_length]
      omega
    have patch := exec_of_completed
      (s := (s.markHeader s.len).append (transportBytes s.cfg mt flow.toNat seq.toNat (0 : BitVec 16).toNat ++ bs)) clear
      (.patchSize size rfl inside)
    rw [State.markHeader_append, State.transport_patched, ← State.markHeader_append] at patch
    exact (execAll_cons first _).trans ((execAll_append run _).trans (execAll_cons patch []))

/-- Settles O22: both runs leave the same state, so a host can tell nothing apart. -/
theorem upFrontAndPatchedSizesAgree : Obligations.UpFrontAndPatchedSizesAgree := fun _ t _ _ _ _ _ clear plain h done =>
  ⟨t, execAll_deferred clear plain h done, t.alike_refl⟩

/-- The step commands behind the link layer, with the size up front, append one after another what ASSEMBLE writes at
once (44_composer.md R145). -/
theorem execAll_transport_app_iq {s : State} {app : AppOperands} {count : Int} {samples : List Sample}
    (clear : s.err = 0) (accepted : strictRefuses s.cfg app = false) (nonneg : 0 ≤ count)
    (enough : count ≤ samples.length) (room : s.len + 15 + 4 * count.toNat ≤ s.cfg.pbCap) (mt : Nat)
    (flow seq size : BitVec 16) :
    execAll [.encTransport mt flow seq size, .encApp app, .serIq count samples] s =
      .next ((s.append (transportBytes s.cfg mt flow.toNat seq.toNat size.toNat ++
        (appBytes s.cfg app ++ blockBytes (usedSamples count samples)))).markHeader s.len) := by
  have transport := exec_of_completed clear (.encTransport mt flow seq size (by omega))
  set headed := (s.append (transportBytes s.cfg mt flow.toNat seq.toNat size.toNat)).markHeader s.len
  have headed_len : headed.len = s.len + 7 := rfl
  have application := exec_of_completed (s := headed) clear
    (.encApp app accepted (show headed.len + 8 ≤ s.cfg.pbCap by omega))
  have block := exec_of_completed (s := headed.append (appBytes s.cfg app)) clear
    (.serIq count samples nonneg enough
      (show headed.len + 8 + 4 * count.toNat ≤ s.cfg.pbCap by omega))
  rw [execAll_cons transport, execAll_cons application]
  refine (execAll_cons block []).trans ?_
  rw [State.append_append, State.markHeader_append, State.append_append]
  rfl

/-- Settles O36: the bytes appended one after another are the packet's, and the size patched in is the one up front. -/
theorem assembleEqualsTheStepSequences : Obligations.AssembleEqualsTheStepSequences := by
  intro s t dst src mt flow idx app count samples clear h done
  obtain ⟨composes, rfl⟩ := execAssemble_completed clear h done
  obtain ⟨accepted, nonneg, enough, fits, room⟩ := composes
  set size : BitVec 16 := BitVec.ofNat 16 (8 + 4 * count.toNat)
  have size_toNat : size.toNat = 8 + 4 * (usedSamples count samples).length := by
    rw [usedSamples_length enough]
    exact Nat.mod_eq_of_lt (by omega)
  set linked := s.truncate.dropHeader.append (linkBytes s.cfg dst src)
  have linked_len : linked.len = 14 := rfl
  have begun : exec .beginFrame s = .next s.truncate.dropHeader := exec_of_completed clear .beginFrame
  have link : exec (.encEth dst src) s.truncate.dropHeader = .next linked :=
    exec_of_completed (s := s.truncate.dropHeader) clear
      (.encEth dst src (show 0 + 14 ≤ s.cfg.pbCap by omega))
  have upFront := execAll_transport_app_iq (s := linked) clear (strictRefuses_eq_false_iff.mpr accepted) nonneg enough
    (show linked.len + 15 + 4 * count.toNat ≤ s.cfg.pbCap by omega) mt flow (BitVec.ofNat 16 idx) size
  have frame : (linked.append (transportBytes s.cfg mt flow.toNat (BitVec.ofNat 16 idx).toNat size.toNat ++
      (appBytes s.cfg app ++ blockBytes (usedSamples count samples)))).markHeader linked.len =
      s.composed dst src mt flow idx app (usedSamples count samples) := by
    rw [size_toNat, BitVec.toNat_ofNat, State.composed, packetBytes, List.append_assoc, List.append_assoc]
    exact (congrArg (State.markHeader 14) (s.truncate.dropHeader.append_append (linkBytes s.cfg dst src) _)).trans rfl
  rw [show linked.cfg = s.cfg from rfl, frame] at upFront
  have deferred := execAll_deferred (s := linked) clear (by simp [plainAppend]) upFront done
  exact ⟨⟨_, (execAll_cons begun _).trans ((execAll_cons link _).trans upFront), State.alike_refl _, rfl⟩,
    ⟨_, (execAll_cons begun _).trans ((execAll_cons link _).trans deferred), State.alike_refl _, rfl⟩⟩

end Sys2Proof.Machine

/-! Two instances that a host cannot tell apart stay so: every command answers them alike, so no later command shows what
ran before a fresh frame. -/

namespace Sys2Proof.Machine

/-- Buffers that read alike below the frame's end read alike there after the same write, and in the written bytes. -/
theorem Memory.read_write_congr {m m' : Memory} {n a : Nat} (alike : ∀ x, x < n → m.read x = m'.read x)
    (bs : List Byte) {x : Nat} (below : x < n ∨ a ≤ x ∧ x < a + bs.length) :
    (m.write a bs).read x = (m'.write a bs).read x := by
  rw [Memory.read_write, Memory.read_write]
  split
  · rfl
  · exact alike x (below.resolve_right ‹_›)

section Alike

variable {s t : State}

theorem State.Alike.append (h : s.Alike t) (bs : List Byte) : (s.append bs).Alike (t.append bs) := by
  obtain ⟨len, reads, thv, tho, err, cause, op, cfg⟩ := h
  refine ⟨congrArg (· + bs.length) len, fun x below => ?_, thv, tho, err, cause, op, cfg⟩
  rw [State.append_pb, State.append_pb, ← len]
  exact Memory.read_write_congr reads bs ((Nat.lt_or_ge x s.len).imp_right fun above => ⟨above, below⟩)

theorem State.Alike.markHeader (h : s.Alike t) (o : Nat) : (s.markHeader o).Alike (t.markHeader o) := by
  obtain ⟨len, reads, -, -, err, cause, op, cfg⟩ := h
  exact ⟨len, reads, rfl, fun _ => rfl, err, cause, op, cfg⟩

/-- Emptied frames are alike whatever stood in the buffers (70_reset_and_hazards.md R221). -/
theorem State.alike_emptied (err : s.err = t.err) (cause : s.errCause = t.errCause) (op : s.errOp = t.errOp)
    (cfg : s.cfg = t.cfg) : s.truncate.dropHeader.Alike t.truncate.dropHeader :=
  ⟨rfl, by simp, rfl, by simp, err, cause, op, cfg⟩

theorem State.Alike.emptied (h : s.Alike t) : s.truncate.dropHeader.Alike t.truncate.dropHeader := by
  obtain ⟨-, -, -, -, err, cause, op, cfg⟩ := h
  exact State.alike_emptied err cause op cfg

theorem State.Alike.patched (h : s.Alike t) (marked : s.thv = true) (z : BitVec 16) :
    (s.patched z).Alike (t.patched z) := by
  obtain ⟨len, reads, thv, tho, err, cause, op, cfg⟩ := h
  refine ⟨len, fun x below => ?_, thv, tho, err, cause, op, cfg⟩
  rw [State.patched, State.patched, ← tho marked]
  exact Memory.read_write_congr reads _ (.inl below)

theorem State.Alike.withError (h : s.Alike t) (kind cause : BitVec 4) (op : Selector) :
    (s.withError kind cause op).Alike (t.withError kind cause op) := by
  obtain ⟨len, reads, thv, tho, -, -, -, cfg⟩ := h
  exact ⟨len, reads, thv, tho, rfl, rfl, rfl, cfg⟩

theorem State.Alike.outBytes (h : s.Alike t) : s.outBytes = t.outBytes := by
  obtain ⟨len, reads, -⟩ := h
  rw [State.outBytes, State.outBytes, ← len]
  exact Memory.readBytes_congr _ _ _ _ fun x _ below => reads x (by omega)

/-- Alike instances differ in what no command reads: bytes of the buffer, the place of a header no longer marked, and
what their hosts will present. -/
theorem State.Alike.eq_with (h : s.Alike t) : ∃ pb tho input, t = { s with pb := pb, tho := tho, input := input } := by
  obtain ⟨len, -, thv, -, err, cause, op, cfg⟩ := h
  exact ⟨t.pb, t.tho, t.input, by rw [len, thv, err, cause, op, cfg]⟩

/-- One command with the same checks in two alike instances answers them alike as soon as its effects, past the checks,
do. -/
theorem runCommand_alike {op : Selector} {checks : List (Bool × CmdError)} {effect effect' : Answer} {s' : State}
    (h : s.Alike t)
    (effects : firstError checks = none → effect = .next s' → ∃ t', effect' = .next t' ∧ s'.Alike t')
    (ran : runCommand op checks effect s = .next s') :
    ∃ t', runCommand op checks effect' t = .next t' ∧ s'.Alike t' := by
  have err : s.err = t.err := by obtain ⟨-, -, -, -, err, -⟩ := h; exact err
  obtain ⟨faulted, rfl⟩ | ⟨clear, e, first, rfl⟩ | ⟨clear, pass, done⟩ := runCommand_cases ran
  · exact ⟨t, runCommand_faulted (err ▸ faulted) .., h⟩
  · exact ⟨_, runCommand_raises (err ▸ clear) first .., h.withError ..⟩
  · rw [runCommand_runs (err ▸ clear) pass]
    exact effects pass done

/-- Effects that are alike next states answer alike. -/
theorem next_alike {u v : State} (h : u.Alike v) {s' : State} (ran : (.next u : Answer) = .next s') :
    ∃ t', (.next v : Answer) = .next t' ∧ s'.Alike t' := by
  cases ran
  exact ⟨v, rfl, h⟩

/-- PATCH_SIZE's write reaches the same bytes of two alike instances with a marked header. -/
theorem State.Alike.memWrite (h : s.Alike t) (marked : s.thv = true) {z : BitVec 16} {s' : State}
    (ran : s.memWrite (s.tho + 1) (be16 z) = .next s') :
    ∃ t', t.memWrite (t.tho + 1) (be16 z) = .next t' ∧ s'.Alike t' := by
  obtain ⟨inside, rfl⟩ := State.memWrite_cases ran
  have patched := h.patched marked z
  obtain ⟨len, -, -, tho, -⟩ := h
  rw [len, tho marked] at inside
  rw [State.patched, State.patched, ← be16_eq] at patched
  exact ⟨_, State.memWrite_inside inside, patched⟩

/-- A record wraps two alike instances alike. -/
theorem State.Alike.wrapRecord (h : s.Alike t) {ts : Timestamp} {payload : List Byte} {s' : State}
    (ran : s.wrapRecord ts payload = .next s') : ∃ t', t.wrapRecord ts payload = .next t' ∧ s'.Alike t' := by
  have len : s.len = t.len := by obtain ⟨len, -⟩ := h; exact len
  unfold State.wrapRecord at ran ⊢
  split at ran
  · rw [← len]
    exact next_alike (h.emptied.append _) ran
  · exact next_alike h ran

/-- Every command answers two alike instances alike. -/
theorem exec_alike {i : Instr} {s' : State} (h : s.Alike t) (ran : exec i s = .next s') :
    ∃ t', exec i t = .next t' ∧ s'.Alike t' := by
  obtain ⟨pb, tho, input, rfl⟩ := h.eq_with
  cases i with
  | beginFrame => exact runCommand_alike (op := 0x0) (checks := []) h (fun _ => next_alike h.emptied) ran
  | encEth | encApp | serIq => exact runCommand_alike h (fun _ => next_alike (h.append _)) ran
  | encTransport => exact runCommand_alike h (fun _ => next_alike ((h.markHeader _).append _)) ran
  | assemble => exact runCommand_alike h (fun _ => next_alike ((h.emptied.append _).markHeader 14)) ran
  | encGhdr => exact runCommand_alike h (fun _ => next_alike (h.emptied.append _)) ran
  | unassigned7 | unassignedAB | unassignedCF =>
    exact runCommand_alike (checks := [(true, .illegalOp)]) h (fun _ => next_alike h) ran
  | patchSize z =>
    exact runCommand_alike h (fun pass => h.memWrite (by simpa [firstError_eq_none] using pass)) ran
  | encRec ts =>
    refine runCommand_alike h (fun _ effect => ?_) ran
    obtain ⟨payload, written, wrapped⟩ := State.memRead_cases effect
    obtain ⟨t', wrapped', alike⟩ := h.wrapRecord wrapped
    exact ⟨t', (State.memRead_of_some (h.outBytes.symm.trans written)).trans wrapped', alike⟩

/-- Runs of the same commands answer two alike instances alike. -/
theorem execAll_alike {is : List Instr} {s' : State} (h : s.Alike t) (ran : execAll is s = .next s') :
    ∃ t', execAll is t = .next t' ∧ s'.Alike t' := by
  induction is generalizing s t with
  | nil => exact next_alike h ran
  | cons i is ih =>
    obtain ⟨u, first, rest⟩ := execAll_cons_next ran
    obtain ⟨v, first', alike⟩ := exec_alike h first
    rw [execAll_cons first']
    exact ih alike rest

/-- The operands ASSEMBLE completes with depend on the configuration alone. -/
theorem State.Composes.of_cfg_eq {app : AppOperands} {count : Int} {samples : List Sample}
    (composes : s.Composes app count samples) (cfg : s.cfg = t.cfg) : t.Composes app count samples := by
  obtain ⟨accepted, nonneg, enough, size, room⟩ := composes
  rw [cfg] at accepted room
  exact ⟨accepted, nonneg, enough, size, room⟩

/-- A command that starts its own frame completes in any state with the same configuration, and leaves the two alike
where their error registers are (70_reset_and_hazards.md R221). -/
theorem State.Completed.startsFrame {i : Instr} {s' : State} (ran : s.Completed i s') (starts : startsFrame i = true)
    (err : s.err = t.err) (cause : s.errCause = t.errCause) (op : s.errOp = t.errOp) (cfg : s.cfg = t.cfg) :
    ∃ t', t.Completed i t' ∧ s'.Alike t' := by
  have emptied := State.alike_emptied err cause op cfg
  cases ran with
  | beginFrame => exact ⟨_, .beginFrame, emptied⟩
  | encGhdr present room =>
    rw [cfg] at present room ⊢
    exact ⟨_, .encGhdr present room, emptied.append _⟩
  | assemble dst src mt flow idx app count samples composes =>
    refine ⟨_, .assemble dst src mt flow idx app count samples (composes.of_cfg_eq cfg), ?_⟩
    rw [State.composed, State.composed, ← cfg]
    exact (emptied.append _).markHeader 14
  | encEth | encTransport | patchSize | encApp | serIq | encRec => cases starts

end Alike

/-- Settles O49: the first command leaves the two instances alike, and the others keep them so. -/
theorem freshFramesForgetThePast : Obligations.FreshFramesForgetThePast := by
  intro i after s1 s2 u1 t1 starts clear1 clear2 cause op cfg first done rest
  have completed := exec_completed clear1 first done
  obtain ⟨u2, completed2, alike⟩ := completed.startsFrame starts (clear1.trans clear2.symm) cause op cfg
  rw [execAll_cons (exec_of_completed clear2 completed2)]
  exact execAll_alike alike rest

end Sys2Proof.Machine

/-! The emitted bytes read back: headers unpack to their operands reduced to their fields, samples to their saturated
values. -/

namespace Sys2Proof.Machine

theorem octet_toNat (n : Nat) : (octet n).toNat = n % 256 := BitVec.toNat_ofNat n 8

/-- A 16-bit value is the concatenation of its two bytes, the most significant first (00_scope.md R7). -/
theorem octet_append_octet (v : BitVec 16) : octet (v.toNat / 2 ^ 8) ++ octet v.toNat = v := by
  apply BitVec.eq_of_toNat_eq
  rw [toNat_append_eq]
  exact octet_high_low v.isLt

/-- Settles O24: the header stands at the old LEN, and each field is a quotient or remainder of its byte. -/
theorem applicationHeaderUnpacksToMaskedOperands : Obligations.ApplicationHeaderUnpacksToMaskedOperands := by
  intro s t app clear h done
  cases exec_completed clear h done with
  | encApp app accepted room =>
    have dir := s.cfg.dir.isLt
    have pver := s.cfg.pver.isLt
    have filt := s.cfg.filt.isLt
    have rb := s.cfg.rb.isLt
    have symInc := s.cfg.symInc.isLt
    refine ⟨_, _, _, _, _, _, _, _, s.pb.write_holds s.len (appBytes s.cfg app), ?_⟩
    simp only [octet_toNat, sectionValue]
    omega

/-- Settles O25: the header stands at the marked place, and each of its halfwords is the concatenation of its bytes. -/
theorem transportHeaderUnpacksToItsFields : Obligations.TransportHeaderUnpacksToItsFields := by
  intro s t mt flow seq size clear h done
  cases exec_completed clear h done with
  | encTransport mt flow seq size room =>
    have version := s.cfg.version.isLt
    refine ⟨_, _, _, _, _, _, _,
      s.pb.write_holds s.len (transportBytes s.cfg mt flow.toNat seq.toNat size.toNat), ?_, ?_, ?_,
      octet_append_octet size, octet_append_octet flow, octet_append_octet seq⟩
    all_goals
      simp only [octet_toNat]
      omega

end Sys2Proof.Machine

/-! Samples read back. -/

namespace Sys2Proof.Machine

/-- What stands in two parts stands part by part. -/
theorem Memory.Holds.of_append {m : Memory} {a : Nat} {xs ys : List Byte} (h : m.Holds a (xs ++ ys)) :
    m.Holds a xs ∧ m.Holds (a + xs.length) ys := by
  refine ⟨fun k hk => ?_, fun k hk => ?_⟩
  · rw [h k (by rw [List.length_append]; omega), List.getElem_append_left hk]
  · rw [Nat.add_assoc, h (xs.length + k) (by rw [List.length_append]; omega), List.getElem_append_right (by omega)]
    simp

/-- Pair `k` of a block stands at offset `4k`, its I component first (43_iq_serializer.md R123). -/
theorem Memory.Holds.pair {m : Memory} {a : Nat} {pairs : List Sample} (h : m.Holds a (blockBytes pairs)) {k : Nat}
    {p : Sample} (pair : pairs[k]? = some p) : m.Holds (a + 4 * k) (sampleBytes p.i ++ sampleBytes p.q) := by
  induction pairs generalizing a k with
  | nil => simp at pair
  | cons q pairs ih =>
    obtain ⟨first, rest⟩ := h.of_append
    cases k with
    | zero =>
      cases pair
      exact first
    | succ k =>
      have later := ih rest (by simpa using pair)
      have offset : a + (sampleBytes q.i ++ sampleBytes q.q).length + 4 * k = a + 4 * (k + 1) := by
        rw [show (sampleBytes q.i ++ sampleBytes q.q).length = 4 from rfl]
        omega
      rwa [offset] at later

theorem saturated_bounds (v : Int) : -32768 ≤ saturated v ∧ saturated v ≤ 32767 := by
  unfold saturated
  split_ifs <;> omega

/-- The two bytes of a component read back as its saturated value (43_iq_serializer.md R121). -/
theorem sampleBytes_readBack (v : Int) :
    ∃ hi lo : Byte, sampleBytes v = [hi, lo] ∧ (hi ++ lo).toInt = saturated v := by
  obtain ⟨low, high⟩ := saturated_bounds v
  refine ⟨_, _, rfl, ?_⟩
  rw [← tc16_toNat, octet_append_octet, tc16, BitVec.toInt_ofInt]
  exact Int.bmod_eq_of_le low (Int.lt_add_one_of_le high)

/-- Settles O30: pair `k` stands at offset `4k`, and the two bytes of each component are its saturated value. -/
theorem emittedSamplesReadBackSaturated : Obligations.EmittedSamplesReadBackSaturated := by
  intro s t count samples clear h done k p below pair
  cases exec_completed clear h done with
  | serIq count samples nonneg enough room =>
    have used : (usedSamples count samples)[k]? = some p := by
      rw [usedSamples, List.getElem?_take_of_lt (by omega), pair]
    have stands := (s.pb.write_holds s.len (blockBytes (usedSamples count samples))).pair used
    obtain ⟨i1, i0, iBytes, iValue⟩ := sampleBytes_readBack p.i
    obtain ⟨q1, q0, qBytes, qValue⟩ := sampleBytes_readBack p.q
    obtain ⟨iLow, iHigh⟩ := saturated_bounds p.i
    obtain ⟨qLow, qHigh⟩ := saturated_bounds p.q
    rw [iBytes, qBytes] at stands
    rw [← iValue] at iLow iHigh
    rw [← qValue] at qLow qHigh
    exact ⟨i1, i0, q1, q0, stands, iValue, qValue, iLow, iHigh, qLow, qHigh⟩

end Sys2Proof.Machine

/-! Operands that fields cut short: values out of range, a count of 273, surplus pairs. -/

namespace Sys2Proof.Machine

/-- A value reduced to the width of a field is masked to the same field. -/
theorem mask_mod {w n : Nat} (width : n = 2 ^ w) (v : Nat) : mask w (v % n) = mask w v := by
  apply BitVec.eq_of_toNat_eq
  rw [toNat_mask, toNat_mask, width, Nat.mod_mod]

/-- The operands reduced to the widths of their fields (30_encoding.md R60). -/
def reducedOperands (app : AppOperands) : AppOperands :=
  ⟨app.frameId % 256, app.subframeId % 16, app.slotId % 16, app.symbolId % 64, app.sectionId % 4096,
    app.startRb % 1024, app.numRb % 256⟩

theorem appHeader_reduced (c : Cfg) (app : AppOperands) : appHeader c (reducedOperands app) = appHeader c app := by
  simp only [appHeader, appByte2, appByte3, sectionWord, reducedOperands, mask_mod, Nat.reducePow]

theorem transportHeader_reduced (c : Cfg) (mt : Nat) (flow seq size : BitVec 16) :
    transportHeader c (mt % 4) flow seq size = transportHeader c mt flow seq size := by
  simp only [transportHeader, transportByte0, mask_mod, Nat.reducePow]

theorem packet_reduced (c : Cfg) (dst src : Mac) (mt : Nat) (flow : BitVec 16) (idx : Nat) (app : AppOperands)
    (pairs : List Sample) :
    packet c dst src (mt % 4) flow (idx % 65536) (reducedOperands app) pairs =
      packet c dst src mt flow idx app pairs := by
  simp only [packet, appHeader_reduced, transportHeader_reduced, mask_mod, Nat.reducePow]

/-- Without strict mode no operands are refused (30_encoding.md R60). -/
theorem strictRefuses_lenient {c : Cfg} (lenient : c.strict = false) (app : AppOperands) :
    strictRefuses c app = false := by
  rw [strictRefuses, lenient, Bool.false_and]

/-- Settles O27: without the strict check the operands reach a command only through its bytes, whose fields mask them. -/
theorem outOfRangeOperandsAreTruncated : Obligations.OutOfRangeOperandsAreTruncated := by
  intro s app lenient
  have accepted := strictRefuses_lenient lenient
  refine ⟨?_, fun mt flow seq size => ?_, fun dst src mt flow idx count samples => ?_⟩
  · change execEncApp app s = execEncApp (reducedOperands app) s
    rw [execEncApp, execEncApp, accepted, accepted, appHeader_reduced]
  · change execEncTransport mt flow seq size s = execEncTransport (mt % 4) flow seq size s
    rw [execEncTransport, execEncTransport, transportHeader_reduced]
  · change execAssemble dst src mt flow idx app count samples s =
      execAssemble dst src (mt % 4) flow (idx % 65536) (reducedOperands app) count samples s
    rw [execAssemble, execAssemble, accepted, accepted, packet_reduced]

/-- Settles O26: the count is byte 7 of the header and nothing else of it, and 273 is 17 modulo 256. -/
theorem count273IsCarriedAs17 : Obligations.Count273IsCarriedAs17 := by
  intro s app clear accepted room
  have byte7 : octet 273 = octet 17 := by decide
  have same : appBytes s.cfg { app with numRb := 273 } = appBytes s.cfg { app with numRb := 17 } := by
    rw [appBytes_setNumRb _ _ 273, appBytes_setNumRb _ _ 17, byte7]
  have run (n : Nat) := execEncApp_fits (app := { app with numRb := n }) clear
    (strictRefuses_eq_false_iff.mpr accepted) room
  have run17 := run 17
  rw [← same] at run17
  refine ⟨(run 273).trans run17.symm, _, run 273, ?_⟩
  rw [appBytes_setNumRb, State.append_pb, Memory.read_write_inside _ _ _ 7 (by simp), List.getElem_set_self, byte7]
  rfl

theorem usedSamples_append {count : Int} {samples : List Sample} (enough : count ≤ samples.length)
    (more : List Sample) : usedSamples count (samples ++ more) = usedSamples count samples :=
  List.take_append_of_le_length (by omega)

theorem tooFewSamples_append {count : Int} {samples : List Sample} (enough : count ≤ samples.length)
    (more : List Sample) : tooFewSamples count (samples ++ more) = tooFewSamples count samples := by
  rw [tooFewSamples_eq_false.mpr enough, tooFewSamples_eq_false]
  rw [List.length_append]
  omega

/-- Settles O31: neither the pairs used nor the check of their number looks behind the first `count`. -/
theorem surplusSamplesAreIgnored : Obligations.SurplusSamplesAreIgnored := by
  intro s count samples more enough
  refine ⟨?_, fun dst src mt flow idx app => ?_⟩
  · change execSerIq count (samples ++ more) s = execSerIq count samples s
    rw [execSerIq, execSerIq, usedSamples_append enough, tooFewSamples_append enough]
  · change execAssemble dst src mt flow idx app count (samples ++ more) s =
      execAssemble dst src mt flow idx app count samples s
    rw [execAssemble, execAssemble, usedSamples_append enough, tooFewSamples_append enough]

/-- Settles O39: nothing refuses 3276 pairs, and their payload size 13112 is 0x3338. -/
theorem endToEndScenario : Obligations.EndToEndScenario := by
  intro s dst src mt flow idx app samples clear lenient cap enough
  have composes : s.Composes app 3276 samples :=
    ⟨by simp [lenient], by decide, by omega, by decide, by omega⟩
  have run : exec (.assemble dst src mt flow idx app 3276 samples) s = _ := execAssemble_composes composes clear
  obtain ⟨hi, lo, read15, read16, -, -, size⟩ :=
    assembledPayloadSizeIsExact s _ dst src mt flow idx app 3276 samples clear run clear
  have hi_eq : hi = 0x33 := BitVec.eq_of_toNat_eq (by have := lo.isLt; simp; omega)
  have lo_eq : lo = 0x38 := BitVec.eq_of_toNat_eq (by have := lo.isLt; simp; omega)
  rw [hi_eq] at read15
  rw [lo_eq] at read16
  refine ⟨_, run, ?_, read15, read16⟩
  rw [State.composed_len, usedSamples_length composes.enough]
  rfl

end Sys2Proof.Machine

/-! The step and the host's side: what a step takes off the port, the encoding of commands, instances side by side. -/

namespace Sys2Proof.Machine

/-- Settles O1: with a command next a step is that command's run, by definition. -/
theorem stepRunsTheDecodedCommand : Obligations.StepRunsTheDecodedCommand := by
  intro s c rest presented
  rw [step, presented]

/-- Settles O2: with nothing next a step answers the same state, by definition. -/
theorem idleBlockWaits : Obligations.IdleBlockWaits := by
  intro s idle
  rw [step, idle]

/-- Settles O5: the fixed fields of `Config.initial`. -/
theorem documentFixedDefaults : Obligations.DocumentFixedDefaults :=
  ⟨rfl, rfl, rfl, rfl, rfl, rfl⟩

/-- Decoding what the encoder drives gives the command back: the two groups of unassigned selectors keep their free
bits. -/
theorem decode_selector_drivenPorts (i : Instr) : decode i.selector i.drivenPorts = i := by
  cases i with
  | unassignedAB low =>
    revert low
    decide
  | unassignedCF low =>
    revert low
    decide
  | beginFrame | encEth | encTransport | patchSize | encApp | serIq | assemble | encGhdr | encRec | unassigned7 =>
    simp [decode, Instr.selector, Instr.drivenPorts]

/-- Settles O51: the encoder drives a command's selector and its ports. -/
theorem decodeOfEncodeIsTheCommand : Obligations.DecodeOfEncodeIsTheCommand := decode_selector_drivenPorts

/-- The command a selector decodes to has that selector, whatever stands on the ports (30_encoding.md R74). -/
theorem selector_decode (op : Selector) (p : Ports) : (decode op p).selector = op := by
  obtain ⟨n, below, rfl⟩ : ∃ n < 16, op = BitVec.ofNat 4 n := ⟨op.toNat, op.isLt, by simp⟩
  interval_cases n <;> rfl

/-- Settles O52: decoding keeps the selector, and a command's own selector and ports decode to it. -/
theorem everySelectorIsOneCommand : Obligations.EverySelectorIsOneCommand := by
  refine fun op p => ⟨selector_decode op p, ?_⟩
  rintro i rfl
  exact decode_selector_drivenPorts i

/-- A word with a bit above the four selector lines is rejected by name (30_encoding.md R70). -/
theorem decodeWord_wide {w : Nat} (wide : 16 ≤ w) (p : Ports) : decodeWord w p = .error (.selectorTooWide w) :=
  if_neg wide.not_gt

/-- Settles O53: the sixteen words by evaluation, every other by its width. -/
theorem selectorWordsDecode : Obligations.SelectorWordsDecode := by
  refine ⟨rfl, rfl, rfl, rfl, rfl, rfl, rfl, rfl, rfl, rfl, rfl, rfl, rfl, rfl, rfl, rfl, fun w wide => ?_⟩
  refine ⟨?_, decodeWord_wide wide⟩
  rw [decodeTableWord, decodeWord_wide wide]

/-- Everything a step of member `k` of a system can do: nothing where there is none, else that member's own step. -/
theorem stepInstance_cases {k : Nat} {sys sys' : System} (h : stepInstance k sys = .next sys') :
    (sys[k]? = none ∧ sys' = sys) ∨ ∃ s t, sys[k]? = some s ∧ step s = .next t ∧ sys' = sys.set k t := by
  unfold stepInstance at h
  split at h
  next absent =>
    cases h
    exact .inl ⟨absent, rfl⟩
  next s present =>
    split at h
    next t stepped =>
      cases h
      exact .inr ⟨s, t, present, stepped, rfl⟩
    · cases h
    · cases h

/-- Settles O50: a step of member `k` sets that member and no other. -/
theorem instancesShareNothing : Obligations.InstancesShareNothing := by
  intro k sys sys' h
  obtain ⟨absent, rfl⟩ | ⟨s, t, present, stepped, rfl⟩ := stepInstance_cases h
  · refine ⟨rfl, fun _ _ => rfl, fun s present => ?_⟩
    cases absent.symm.trans present
  · refine ⟨List.length_set, fun j other => List.getElem?_set_ne other.symm, fun s' present' => ?_⟩
    cases present.symm.trans present'
    exact ⟨t, stepped, List.getElem?_set_self (List.getElem?_eq_some_iff.mp present).1⟩

end Sys2Proof.Machine
